-- ==== Sys2Proof/Word.lean ====
section
/-! DEFINITION. The words of the machine: bytes, 16-bit words and 17-bit computed addresses (spec/00_scope.md section 7.1, R4). -/

namespace Sys2Proof

/-- A byte: a memory cell or a lane (00_scope.md R4 `BYTE`, `LANE_WIDTH`). -/
abbrev Byte := BitVec 8

/-- A 16-bit word: a slot, an address held in a slot, a 16-bit immediate (R4 `SLOT_WIDTH`, `ADDR_WIDTH`). -/
abbrev Word := BitVec 16

/-- A `u17`: an address computed past the top of memory without wrap-around (00_scope.md R6, 10_state.md R25, 20_memory.md R50). -/
abbrev Addr := BitVec 17

end Sys2Proof
end

