-- ==== Sys2Proof/Config.lean ====
section
/-! DEFINITION. What is fixed for the hardware: the parameters of spec/00_scope.md R4 and the type of the `CYCLE_COST` table.
The default costs themselves stand in Sys2Proof/Machine/Costs.lean (`Config.cycleCost`). There is no free value:
"Nothing in the block is `any value`" (93_implementation_defined.md part 1, 70_reset_and_hazards.md R259). -/

namespace Sys2Proof

/-- `MEM_SIZE` (R4, 10_state.md R26): addresses 0x0000 to 0xFFFF. -/
abbrev Config.memSize : Nat := 0x10000

/-- `LOAD_ORIGIN` (R4). -/
def Config.loadOrigin : Nat := 0

/-- `ENTRY` (R4, 70_reset_and_hazards.md R253). -/
def Config.entry : Word := 0x0100#16

/-- `CB_PREFIX` (R4, 30_encoding.md R69): the byte that selects the secondary table. -/
abbrev Config.cbPrefix : Byte := 0xCB#8

/-- One more than the largest value of the 64-bit cycle counter (R4 `CYCLE_WIDTH`, 10_state.md R27, R28). -/
abbrev Config.cycleLimit : Nat := 2 ^ 64

/-- The entries of `CYCLE_COST` as the instruction rules name them (70_reset_and_hazards.md R262): one per form, two for
`JP cc,a16`. -/
inductive CostEntry
  | nop | ldRrD16 | ldIndPpA | ldIndHlR | incRr | decRr | incR | decR | ldRD8 | rrca | rrcR | srlR
  | jpA16 | jpCcTaken | jpCcNotTaken | halt
  deriving DecidableEq, Repr

/-- A `CYCLE_COST` table: a non-negative integer per entry (R262, 92_eei_decisions.md D8). -/
abbrev CycleCost := CostEntry → Nat

/-- Every entry, to check a table by going through them. -/
def CostEntry.all : List CostEntry :=
  [.nop, .ldRrD16, .ldIndPpA, .ldIndHlR, .incRr, .decRr, .incR, .decR, .ldRD8, .rrca, .rrcR, .srlR,
   .jpA16, .jpCcTaken, .jpCcNotTaken, .halt]

end Sys2Proof
end

