-- ==== Sys2Proof/Syntax.lean ====
section
/-! DEFINITION. The names the spec closes over (slots, lanes, flags, conditions, operand registers) and the ONE inductive of
instructions: one constructor per row of spec/opcode_table.json (30_encoding.md R66 and R70), with its immediate. -/

namespace Sys2Proof

/-- The six slots of the Register File (10_state.md R11). -/
inductive Slot
  | af | bc | de | hl | sp | pc
  deriving DecidableEq, Repr

/-- The eight lanes of the four pairs (10_state.md R12). -/
inductive Lane
  | a | f | b | c | d | e | h | l
  deriving DecidableEq, Repr

/-- The four flags of lane F (10_state.md R18). -/
inductive Flag
  | z | n | h | c
  deriving DecidableEq, Repr

/-- The conditions of `JP cc,a16` (47_jump.md R137). -/
inductive Cond
  | nz | z | nc | c
  deriving DecidableEq, Repr

/-- The lane operands `r` of the instruction forms; never F (10_state.md R34). -/
inductive Reg
  | b | c | d | e | h | l | a
  deriving DecidableEq, Repr

/-- The slot operands `rr` of the instruction forms; never AF or PC (10_state.md R34). -/
inductive Reg16
  | bc | de | hl | sp
  deriving DecidableEq, Repr

/-- The address pairs `pp` of `LD (pp),A` (42_store_r8_indirect.md R110). -/
inductive StorePair
  | bc | de
  deriving DecidableEq, Repr

/-- The instructions: the 50 rows of the primary table and the 14 rows of the secondary table, in the table's order. The
comment of each constructor gives its assembler name (30_encoding.md R76) and its rule. -/
inductive Instr
  /-- `NOP` (R100) -/
  | nop
  /-- `LD BC,d16` (R105) -/
  | ldBcD16 (imm16 : Word)
  /-- `LD (BC),A` (R110) -/
  | ldIndBcA
  /-- `INC BC` (R115) -/
  | incBc
  /-- `INC B` (R120) -/
  | incB
  /-- `DEC B` (R121) -/
  | decB
  /-- `LD B,d8` (R125) -/
  | ldBD8 (imm8 : Byte)
  /-- `DEC BC` (R116) -/
  | decBc
  /-- `INC C` (R120) -/
  | incC
  /-- `DEC C` (R121) -/
  | decC
  /-- `LD C,d8` (R125) -/
  | ldCD8 (imm8 : Byte)
  /-- `RRCA` (R130) -/
  | rrca
  /-- `LD DE,d16` (R105) -/
  | ldDeD16 (imm16 : Word)
  /-- `LD (DE),A` (R110) -/
  | ldIndDeA
  /-- `INC DE` (R115) -/
  | incDe
  /-- `INC D` (R120) -/
  | incD
  /-- `DEC D` (R121) -/
  | decD
  /-- `LD D,d8` (R125) -/
  | ldDD8 (imm8 : Byte)
  /-- `DEC DE` (R116) -/
  | decDe
  /-- `INC E` (R120) -/
  | incE
  /-- `DEC E` (R121) -/
  | decE
  /-- `LD E,d8` (R125) -/
  | ldED8 (imm8 : Byte)
  /-- `LD HL,d16` (R105) -/
  | ldHlD16 (imm16 : Word)
  /-- `INC HL` (R115) -/
  | incHl
  /-- `INC H` (R120) -/
  | incH
  /-- `DEC H` (R121) -/
  | decH
  /-- `LD H,d8` (R125) -/
  | ldHD8 (imm8 : Byte)
  /-- `DEC HL` (R116) -/
  | decHl
  /-- `INC L` (R120) -/
  | incL
  /-- `DEC L` (R121) -/
  | decL
  /-- `LD L,d8` (R125) -/
  | ldLD8 (imm8 : Byte)
  /-- `LD SP,d16` (R105) -/
  | ldSpD16 (imm16 : Word)
  /-- `INC SP` (R115) -/
  | incSp
  /-- `DEC SP` (R116) -/
  | decSp
  /-- `INC A` (R120) -/
  | incA
  /-- `DEC A` (R121) -/
  | decA
  /-- `LD A,d8` (R125) -/
  | ldAD8 (imm8 : Byte)
  /-- `LD (HL),B` (R111) -/
  | ldIndHlB
  /-- `LD (HL),C` (R111) -/
  | ldIndHlC
  /-- `LD (HL),D` (R111) -/
  | ldIndHlD
  /-- `LD (HL),E` (R111) -/
  | ldIndHlE
  /-- `LD (HL),H` (R111) -/
  | ldIndHlH
  /-- `LD (HL),L` (R111) -/
  | ldIndHlL
  /-- `HALT` (R140) -/
  | halt
  /-- `LD (HL),A` (R111) -/
  | ldIndHlA
  /-- `JP NZ,a16` (R136) -/
  | jpNzA16 (imm16 : Word)
  /-- `JP a16` (R135) -/
  | jpA16 (imm16 : Word)
  /-- `JP Z,a16` (R136) -/
  | jpZA16 (imm16 : Word)
  /-- `JP NC,a16` (R136) -/
  | jpNcA16 (imm16 : Word)
  /-- `JP C,a16` (R136) -/
  | jpCA16 (imm16 : Word)
  /-- `RRC B` (R131) -/
  | rrcB
  /-- `RRC C` (R131) -/
  | rrcC
  /-- `RRC D` (R131) -/
  | rrcD
  /-- `RRC E` (R131) -/
  | rrcE
  /-- `RRC H` (R131) -/
  | rrcH
  /-- `RRC L` (R131) -/
  | rrcL
  /-- `RRC A` (R131) -/
  | rrcA
  /-- `SRL B` (R132) -/
  | srlB
  /-- `SRL C` (R132) -/
  | srlC
  /-- `SRL D` (R132) -/
  | srlD
  /-- `SRL E` (R132) -/
  | srlE
  /-- `SRL H` (R132) -/
  | srlH
  /-- `SRL L` (R132) -/
  | srlL
  /-- `SRL A` (R132) -/
  | srlA
  deriving DecidableEq, Repr

/-- The lane an operand `r` names. -/
def Reg.lane : Reg → Lane
  | .b => .b
  | .c => .c
  | .d => .d
  | .e => .e
  | .h => .h
  | .l => .l
  | .a => .a

/-- The slot an operand `rr` names. -/
def Reg16.slot : Reg16 → Slot
  | .bc => .bc
  | .de => .de
  | .hl => .hl
  | .sp => .sp

/-- The slot an address pair `pp` names. -/
def StorePair.slot : StorePair → Slot
  | .bc => .bc
  | .de => .de

/-- The form `LD rr,d16` (R105). -/
def Instr.ldRrD16 : Reg16 → Word → Instr
  | .bc, n => .ldBcD16 n
  | .de, n => .ldDeD16 n
  | .hl, n => .ldHlD16 n
  | .sp, n => .ldSpD16 n

/-- The form `LD (pp),A` (R110). -/
def Instr.ldIndPpA : StorePair → Instr
  | .bc => .ldIndBcA
  | .de => .ldIndDeA

/-- The form `LD (HL),r` (R111). -/
def Instr.ldIndHlR : Reg → Instr
  | .b => .ldIndHlB
  | .c => .ldIndHlC
  | .d => .ldIndHlD
  | .e => .ldIndHlE
  | .h => .ldIndHlH
  | .l => .ldIndHlL
  | .a => .ldIndHlA

/-- The form `INC rr` (R115). -/
def Instr.incRr : Reg16 → Instr
  | .bc => .incBc
  | .de => .incDe
  | .hl => .incHl
  | .sp => .incSp

/-- The form `DEC rr` (R116). -/
def Instr.decRr : Reg16 → Instr
  | .bc => .decBc
  | .de => .decDe
  | .hl => .decHl
  | .sp => .decSp

/-- The form `INC r` (R120). -/
def Instr.incR : Reg → Instr
  | .b => .incB
  | .c => .incC
  | .d => .incD
  | .e => .incE
  | .h => .incH
  | .l => .incL
  | .a => .incA

/-- The form `DEC r` (R121). -/
def Instr.decR : Reg → Instr
  | .b => .decB
  | .c => .decC
  | .d => .decD
  | .e => .decE
  | .h => .decH
  | .l => .decL
  | .a => .decA

/-- The form `LD r,d8` (R125). -/
def Instr.ldRD8 : Reg → Byte → Instr
  | .b, n => .ldBD8 n
  | .c, n => .ldCD8 n
  | .d, n => .ldDD8 n
  | .e, n => .ldED8 n
  | .h, n => .ldHD8 n
  | .l, n => .ldLD8 n
  | .a, n => .ldAD8 n

/-- The form `RRC r` (R131). -/
def Instr.rrcR : Reg → Instr
  | .b => .rrcB
  | .c => .rrcC
  | .d => .rrcD
  | .e => .rrcE
  | .h => .rrcH
  | .l => .rrcL
  | .a => .rrcA

/-- The form `SRL r` (R132). -/
def Instr.srlR : Reg → Instr
  | .b => .srlB
  | .c => .srlC
  | .d => .srlD
  | .e => .srlE
  | .h => .srlH
  | .l => .srlL
  | .a => .srlA

/-- The form `JP cc,a16` (R136). -/
def Instr.jpCcA16 : Cond → Word → Instr
  | .nz, n => .jpNzA16 n
  | .z, n => .jpZA16 n
  | .nc, n => .jpNcA16 n
  | .c, n => .jpCA16 n

end Sys2Proof
end

