-- ==== Sys2Proof/Decode.lean ====
section
/-! DEFINITION. Formats and lengths (spec/30_encoding.md R61, R71), the two opcode tables (R66, R70), the decoder, total on any
bytes and rejecting by name (R65, R67, R69), the encoder, and the host's `decodeTableWord`. -/

namespace Sys2Proof

/-- The four formats (R61). -/
inductive Format
  | op | opD8 | opD16 | cbOp
  deriving DecidableEq, Repr

/-- The declared byte length of a format (R61, R71). -/
def Format.length : Format → Nat
  | .op => 1
  | .opD8 => 2
  | .opD16 => 3
  | .cbOp => 2

/-- The operand length of a format: 0, 1 or 2 immediate bytes (R65). -/
def Format.operandBytes : Format → Nat
  | .op => 0
  | .opD8 => 1
  | .opD16 => 2
  | .cbOp => 0

/-- The format column of R66 and R70. -/
def Instr.format : Instr → Format
  | .nop => .op
  | .ldBcD16 _ => .opD16
  | .ldIndBcA => .op
  | .incBc => .op
  | .incB => .op
  | .decB => .op
  | .ldBD8 _ => .opD8
  | .decBc => .op
  | .incC => .op
  | .decC => .op
  | .ldCD8 _ => .opD8
  | .rrca => .op
  | .ldDeD16 _ => .opD16
  | .ldIndDeA => .op
  | .incDe => .op
  | .incD => .op
  | .decD => .op
  | .ldDD8 _ => .opD8
  | .decDe => .op
  | .incE => .op
  | .decE => .op
  | .ldED8 _ => .opD8
  | .ldHlD16 _ => .opD16
  | .incHl => .op
  | .incH => .op
  | .decH => .op
  | .ldHD8 _ => .opD8
  | .decHl => .op
  | .incL => .op
  | .decL => .op
  | .ldLD8 _ => .opD8
  | .ldSpD16 _ => .opD16
  | .incSp => .op
  | .decSp => .op
  | .incA => .op
  | .decA => .op
  | .ldAD8 _ => .opD8
  | .ldIndHlB => .op
  | .ldIndHlC => .op
  | .ldIndHlD => .op
  | .ldIndHlE => .op
  | .ldIndHlH => .op
  | .ldIndHlL => .op
  | .halt => .op
  | .ldIndHlA => .op
  | .jpNzA16 _ => .opD16
  | .jpA16 _ => .opD16
  | .jpZA16 _ => .opD16
  | .jpNcA16 _ => .opD16
  | .jpCA16 _ => .opD16
  | .rrcB => .cbOp
  | .rrcC => .cbOp
  | .rrcD => .cbOp
  | .rrcE => .cbOp
  | .rrcH => .cbOp
  | .rrcL => .cbOp
  | .rrcA => .cbOp
  | .srlB => .cbOp
  | .srlC => .cbOp
  | .srlD => .cbOp
  | .srlE => .cbOp
  | .srlH => .cbOp
  | .srlL => .cbOp
  | .srlA => .cbOp

/-- The declared byte length of an instruction's table entry, the sole source of the pc advance (R71). -/
def Instr.length (i : Instr) : Nat := i.format.length

/-- `imm16 = hi :: lo` (R63): the low byte comes first in memory. -/
def imm16 (lo hi : Byte) : Word := hi ++ lo

/-- An entry of the primary table: the instruction of an opcode byte, given its immediate where the format has one. -/
inductive Entry
  | op (i : Instr)
  | opD8 (f : Byte → Instr)
  | opD16 (f : Word → Instr)

/-- The primary table (R66), opcodes 0x00 to 0x0F. -/
def primaryRows0 : List (Byte × Entry) :=
  [(0x00#8, .op .nop),
   (0x01#8, .opD16 .ldBcD16),
   (0x02#8, .op .ldIndBcA),
   (0x03#8, .op .incBc),
   (0x04#8, .op .incB),
   (0x05#8, .op .decB),
   (0x06#8, .opD8 .ldBD8),
   (0x0B#8, .op .decBc),
   (0x0C#8, .op .incC),
   (0x0D#8, .op .decC),
   (0x0E#8, .opD8 .ldCD8),
   (0x0F#8, .op .rrca)]

/-- The primary table (R66), opcodes 0x10 to 0x1F. -/
def primaryRows1 : List (Byte × Entry) :=
  [(0x11#8, .opD16 .ldDeD16),
   (0x12#8, .op .ldIndDeA),
   (0x13#8, .op .incDe),
   (0x14#8, .op .incD),
   (0x15#8, .op .decD),
   (0x16#8, .opD8 .ldDD8),
   (0x1B#8, .op .decDe),
   (0x1C#8, .op .incE),
   (0x1D#8, .op .decE),
   (0x1E#8, .opD8 .ldED8)]

/-- The primary table (R66), opcodes 0x20 to 0x2F. -/
def primaryRows2 : List (Byte × Entry) :=
  [(0x21#8, .opD16 .ldHlD16),
   (0x23#8, .op .incHl),
   (0x24#8, .op .incH),
   (0x25#8, .op .decH),
   (0x26#8, .opD8 .ldHD8),
   (0x2B#8, .op .decHl),
   (0x2C#8, .op .incL),
   (0x2D#8, .op .decL),
   (0x2E#8, .opD8 .ldLD8)]

/-- The primary table (R66), opcodes 0x30 to 0x3F. -/
def primaryRows3 : List (Byte × Entry) :=
  [(0x31#8, .opD16 .ldSpD16),
   (0x33#8, .op .incSp),
   (0x3B#8, .op .decSp),
   (0x3C#8, .op .incA),
   (0x3D#8, .op .decA),
   (0x3E#8, .opD8 .ldAD8)]

/-- The primary table (R66), opcodes 0x70 to 0x7F. -/
def primaryRows7 : List (Byte × Entry) :=
  [(0x70#8, .op .ldIndHlB),
   (0x71#8, .op .ldIndHlC),
   (0x72#8, .op .ldIndHlD),
   (0x73#8, .op .ldIndHlE),
   (0x74#8, .op .ldIndHlH),
   (0x75#8, .op .ldIndHlL),
   (0x76#8, .op .halt),
   (0x77#8, .op .ldIndHlA)]

/-- The primary table (R66), opcodes 0xC0 to 0xDF. -/
def primaryRowsJump : List (Byte × Entry) :=
  [(0xC2#8, .opD16 .jpNzA16),
   (0xC3#8, .opD16 .jpA16),
   (0xCA#8, .opD16 .jpZA16),
   (0xD2#8, .opD16 .jpNcA16),
   (0xDA#8, .opD16 .jpCA16)]

/-- The primary table (R66): 50 entries; the prefix byte has none of its own. -/
def primaryTable : List (Byte × Entry) :=
  primaryRows0 ++ primaryRows1 ++ primaryRows2 ++ primaryRows3 ++ primaryRows7 ++ primaryRowsJump

/-- The secondary table (R70): 14 entries, indexed by the byte after the prefix byte. -/
def secondaryTable : List (Byte × Instr) :=
  [(0x08#8, .rrcB),
   (0x09#8, .rrcC),
   (0x0A#8, .rrcD),
   (0x0B#8, .rrcE),
   (0x0C#8, .rrcH),
   (0x0D#8, .rrcL),
   (0x0F#8, .rrcA),
   (0x38#8, .srlB),
   (0x39#8, .srlC),
   (0x3A#8, .srlD),
   (0x3B#8, .srlE),
   (0x3C#8, .srlH),
   (0x3D#8, .srlL),
   (0x3F#8, .srlA)]

/-- What the decoder answers for a list of bytes. -/
inductive Decoded
  /-- An instruction and the bytes after it. -/
  | ok (i : Instr) (rest : List Byte)
  /-- No table entry (R67, R69): the byte and, behind the prefix byte, the sub-opcode. -/
  | unknownOpcode (byte : Byte) (subop : Option Byte)
  /-- The list ends before the byte at this offset, which the decoder needs. -/
  | missingByte (offset : Nat)
  deriving DecidableEq, Repr

/-- Operand bytes of a primary entry, in ascending order (R62, R63). -/
def decodeOperands (e : Entry) (bs : List Byte) : Decoded :=
  match e, bs with
  | .op i, bs => .ok i bs
  | .opD8 _, [] => .missingByte 1
  | .opD8 f, n :: rest => .ok (f n) rest
  | .opD16 _, [] => .missingByte 1
  | .opD16 _, [_] => .missingByte 2
  | .opD16 f, lo :: hi :: rest => .ok (f (imm16 lo hi)) rest

/-- The secondary lookup (R69, R70) on the bytes after the prefix byte. -/
def decodeSecondary (bs : List Byte) : Decoded :=
  match bs with
  | [] => .missingByte 1
  | subop :: rest =>
    match secondaryTable.lookup subop with
    | some i => .ok i rest
    | none => .unknownOpcode Config.cbPrefix (some subop)

/-- The decoder (R65, R67, R69), in the order of R78. It reads the bytes and nothing else (R79). -/
def decode (bs : List Byte) : Decoded :=
  match bs with
  | [] => .missingByte 0
  | opcode :: rest =>
    if opcode = Config.cbPrefix then decodeSecondary rest
    else
      match primaryTable.lookup opcode with
      | some e => decodeOperands e rest
      | none => .unknownOpcode opcode none

/-- The low byte of a 16-bit immediate (R61). -/
def loByte (w : Word) : Byte := w.extractLsb' 0 8

/-- The high byte of a 16-bit immediate (R61). -/
def hiByte (w : Word) : Byte := w.extractLsb' 8 8

/-- The bytes of an instruction in memory order (R61, R66, R70). -/
def encode : Instr → List Byte
  | .nop => [0x00#8]
  | .ldBcD16 n => [0x01#8, loByte n, hiByte n]
  | .ldIndBcA => [0x02#8]
  | .incBc => [0x03#8]
  | .incB => [0x04#8]
  | .decB => [0x05#8]
  | .ldBD8 n => [0x06#8, n]
  | .decBc => [0x0B#8]
  | .incC => [0x0C#8]
  | .decC => [0x0D#8]
  | .ldCD8 n => [0x0E#8, n]
  | .rrca => [0x0F#8]
  | .ldDeD16 n => [0x11#8, loByte n, hiByte n]
  | .ldIndDeA => [0x12#8]
  | .incDe => [0x13#8]
  | .incD => [0x14#8]
  | .decD => [0x15#8]
  | .ldDD8 n => [0x16#8, n]
  | .decDe => [0x1B#8]
  | .incE => [0x1C#8]
  | .decE => [0x1D#8]
  | .ldED8 n => [0x1E#8, n]
  | .ldHlD16 n => [0x21#8, loByte n, hiByte n]
  | .incHl => [0x23#8]
  | .incH => [0x24#8]
  | .decH => [0x25#8]
  | .ldHD8 n => [0x26#8, n]
  | .decHl => [0x2B#8]
  | .incL => [0x2C#8]
  | .decL => [0x2D#8]
  | .ldLD8 n => [0x2E#8, n]
  | .ldSpD16 n => [0x31#8, loByte n, hiByte n]
  | .incSp => [0x33#8]
  | .decSp => [0x3B#8]
  | .incA => [0x3C#8]
  | .decA => [0x3D#8]
  | .ldAD8 n => [0x3E#8, n]
  | .ldIndHlB => [0x70#8]
  | .ldIndHlC => [0x71#8]
  | .ldIndHlD => [0x72#8]
  | .ldIndHlE => [0x73#8]
  | .ldIndHlH => [0x74#8]
  | .ldIndHlL => [0x75#8]
  | .halt => [0x76#8]
  | .ldIndHlA => [0x77#8]
  | .jpNzA16 n => [0xC2#8, loByte n, hiByte n]
  | .jpA16 n => [0xC3#8, loByte n, hiByte n]
  | .jpZA16 n => [0xCA#8, loByte n, hiByte n]
  | .jpNcA16 n => [0xD2#8, loByte n, hiByte n]
  | .jpCA16 n => [0xDA#8, loByte n, hiByte n]
  | .rrcB => [Config.cbPrefix, 0x08#8]
  | .rrcC => [Config.cbPrefix, 0x09#8]
  | .rrcD => [Config.cbPrefix, 0x0A#8]
  | .rrcE => [Config.cbPrefix, 0x0B#8]
  | .rrcH => [Config.cbPrefix, 0x0C#8]
  | .rrcL => [Config.cbPrefix, 0x0D#8]
  | .rrcA => [Config.cbPrefix, 0x0F#8]
  | .srlB => [Config.cbPrefix, 0x38#8]
  | .srlC => [Config.cbPrefix, 0x39#8]
  | .srlD => [Config.cbPrefix, 0x3A#8]
  | .srlE => [Config.cbPrefix, 0x3B#8]
  | .srlH => [Config.cbPrefix, 0x3C#8]
  | .srlL => [Config.cbPrefix, 0x3D#8]
  | .srlA => [Config.cbPrefix, 0x3F#8]

/-- The opcode bytes of format `OP_D8` (R66). -/
def opD8Opcodes : List Byte := [0x06#8, 0x0E#8, 0x16#8, 0x1E#8, 0x26#8, 0x2E#8, 0x3E#8]

/-- The byte at position `k` of a number whose lowest byte is byte 0. -/
def tableByte (w k : Nat) : Byte := BitVec.ofNat 8 (w / 256 ^ k)

/-- The three bytes, in memory order, of an instruction whose `nbits` bits are `w`, numbered as spec/opcode_table.json numbers
them, the bits above `nbits` zero. The first byte is bits 7:0, EXCEPT for a 16-bit row of format `CB_OP`, whose match the table
applies to `byte0 * 256 + byte1` (30_encoding.md section 8): there the first byte, the prefix byte, is bits 15:8. A 16-bit
number whose bits 15:8 are the prefix byte is read so unless its bits 7:0 are an `OP_D8` opcode (then it is that opcode with
immediate 0xCB). DEDUCED, log entry 4. -/
def tableBytes (nbits w : Nat) : List Byte :=
  let v := w % 2 ^ nbits
  if nbits = 16 ∧ tableByte v 1 = Config.cbPrefix ∧ tableByte v 0 ∉ opD8Opcodes then
    [tableByte v 1, tableByte v 0, 0#8]
  else [tableByte v 0, tableByte v 1, tableByte v 2]

/-- The instruction the decoder reads from the bits of a row of the opcode table (`tableBytes`); none where it refuses. -/
def decodeTableWord (nbits w : Nat) : Option Instr :=
  match decode (tableBytes nbits w) with
  | .ok i _ => some i
  | .unknownOpcode _ _ => none
  | .missingByte _ => none

end Sys2Proof
end

