-- ==== Sys2Proof/Machine/Costs.lean ====
section
/-! DEFINITION. The default `CYCLE_COST` table (spec/70_reset_and_hazards.md R262). -/

namespace Sys2Proof

/-- `CYCLE_COST` at the defaults of R262, in T-cycles. DESIGN CHOICE, log entry 1: the spec leaves the table an open parameter
with these defaults; the host's machine runs with them, and `Machine.coreWith` is the machine of any table. -/
def Config.cycleCost : CycleCost
  | .nop => 4
  | .ldRrD16 => 12
  | .ldIndPpA => 8
  | .ldIndHlR => 8
  | .incRr => 8
  | .decRr => 8
  | .incR => 4
  | .decR => 4
  | .ldRD8 => 8
  | .rrca => 4
  | .rrcR => 8
  | .srlR => 8
  | .jpA16 => 16
  | .jpCcTaken => 16
  | .jpCcNotTaken => 12
  | .halt => 4

end Sys2Proof
end

