-- ==== Sys2Proof/Machine/State.lean ====
section
/-! DEFINITION. The complete state of the hardware (spec/10_state.md R10), the run status with its diagnostic (R29;
60_exceptions.md R201, R202), the reasons a step can stop, and the state after reset (R33). -/

namespace Sys2Proof.Machine

/-- The access kind of an `OutOfRange` fault (60_exceptions.md R202). -/
inductive AccessKind
  | operandRead
  | nextPc
  deriving DecidableEq, Repr

/-- The two runtime faults of the engine with the information each records (60_exceptions.md R200 to R202). Raising one is a
NEXT state whose status holds it (R204), not a stop of the model. -/
inductive EngineFault
  /-- No table entry (R201): `subop` is present exactly behind the prefix byte. -/
  | unknownOpcode (addr : Word) (byte : Byte) (subop : Option Byte)
  /-- An address of 0x10000 or more (R202). -/
  | outOfRange (addr : Word) (byte : Byte) (kind : AccessKind) (bad : Addr)
  deriving DecidableEq, Repr

/-- The run status (10_state.md R29). -/
inductive Status
  | running
  | halted (addr : Word)
  | faulted (info : EngineFault)
  deriving DecidableEq, Repr

/-- Memory as the list of its cells that are not 0x00, addresses strictly rising and below `MEM_SIZE`: what an unlisted address
reads as is 0x00, the spec's own reset contents (10_state.md R33). -/
abbrev Memory := List Host.Cell

/-- The complete state (10_state.md R10): six slots, memory, the cycle counter and the run status. -/
structure State where
  af : Word
  bc : Word
  de : Word
  hl : Word
  sp : Word
  pc : Word
  mem : Memory
  cycles : BitVec 64
  status : Status
  deriving DecidableEq, Repr

/-- Why a step is not enabled: the stuck case of 10_state.md R29 and 70_reset_and_hazards.md R256 ("has no effect and is not a
step"). Raised by `step` alone, before any fetch. Safe: the model stops where the hardware does nothing. -/
inductive Fault
  /-- `step` was asked for in `Halted(addr)`. Safe. -/
  | engineHalted (addr : Word)
  /-- `step` was asked for in `Faulted(info)`. Safe. -/
  | engineFaulted (info : EngineFault)
  deriving DecidableEq, Repr

/-- What the model gives no meaning. -/
inductive Refusal
  /-- An arm of `exec` without a meaning; no arm of this model is one. Safe. -/
  | notModelled (mnemonic : String)
  /-- The step would take `cycles` to 2^64 or more (10_state.md R28: "refuse it"). Raised by `commit`. Safe. -/
  | cycleCounterOverflow
  deriving DecidableEq, Repr

/-- The state after reset (10_state.md R33) with nothing loaded, that is after `load` of the empty image: every slot but PC is
zero, PC is the entry address, every memory cell is 0x00, `cycles` is 0 and the engine is Running. -/
def State.reset : State where
  af := 0#16
  bc := 0#16
  de := 0#16
  hl := 0#16
  sp := 0#16
  pc := Config.entry
  mem := []
  cycles := 0#64
  status := .running

end Sys2Proof.Machine
end

