-- ==== Sys2Proof/Machine/Ops.lean ====
section
/-! DEFINITION. The named operations over memory and registers: the memory primitives (spec/20_memory.md R41, R42), the six
ports of the Register File (10_state.md R13 to R20), raising a fault (60_exceptions.md R203, R204) and commit (30_encoding.md
R72, R73; 10_state.md R25, R28). -/

namespace Sys2Proof.Machine

/-! ## Memory -/

/-- The byte of the cell at `a`; an unlisted cell holds 0x00 (10_state.md R33). -/
def Memory.read : Memory → Nat → Byte
  | [], _ => 0#8
  | (b, w) :: m, a => if a = b then w else Memory.read m a

/-- The list without the cell at `a`. -/
def Memory.erase : Memory → Nat → Memory
  | [], _ => []
  | (b, w) :: m, a => if a = b then Memory.erase m a else (b, w) :: Memory.erase m a

/-- The list with a cell put in at its place in the rising order. -/
def Memory.insert : Memory → Nat → Byte → Memory
  | [], a, v => [(a, v)]
  | (b, w) :: m, a, v => if a < b then (a, v) :: (b, w) :: m else (b, w) :: Memory.insert m a v

/-- `mem[a] <- v` (20_memory.md R42), keeping the canonical form: writing 0x00 removes the cell from the list. -/
def Memory.write (m : Memory) (a : Nat) (v : Byte) : Memory :=
  if v = 0#8 then Memory.erase m a else Memory.insert (Memory.erase m a) a v

/-- The cells of the list stand at rising addresses from `lo` on, all below `MEM_SIZE`, none of them 0x00. -/
def Memory.wfFrom : Nat → Memory → Bool
  | _, [] => true
  | lo, (b, w) :: m => decide (lo ≤ b) && decide (b < Config.memSize) && (w != 0#8) && Memory.wfFrom (b + 1) m

/-- The canonical form of a memory (the address space is that of 20_memory.md R40). -/
def Memory.wf (m : Memory) : Bool := Memory.wfFrom 0 m

/-- `MemRead(addr, 1)` (20_memory.md R41); none where it raises `OutOfRange`. -/
def State.memRead (s : State) (addr : Addr) : Option Byte :=
  if addr.toNat < Config.memSize then some (s.mem.read addr.toNat) else none

/-- `MemWrite(addr, 1, v)` (20_memory.md R42). A data address is the value of a 16-bit pair, so it is always below `MEM_SIZE`
and the write never faults (R42, R57). -/
def State.memWrite (s : State) (addr : Word) (v : Byte) : State :=
  { s with mem := s.mem.write addr.toNat v }

/-! ## The Register File -/

/-- `read_u16` (10_state.md R13). -/
def State.readU16 (s : State) : Slot → Word
  | .af => s.af
  | .bc => s.bc
  | .de => s.de
  | .hl => s.hl
  | .sp => s.sp
  | .pc => s.pc

/-- `write_u16` (10_state.md R14): verbatim, AF included. -/
def State.writeU16 (s : State) (slot : Slot) (v : Word) : State :=
  match slot with
  | .af => { s with af := v }
  | .bc => { s with bc := v }
  | .de => { s with de := v }
  | .hl => { s with hl := v }
  | .sp => { s with sp := v }
  | .pc => { s with pc := v }

/-- The pair of a lane (10_state.md R12). -/
def lanePair : Lane → Slot
  | .a | .f => .af
  | .b | .c => .bc
  | .d | .e => .de
  | .h | .l => .hl

/-- Whether a lane is the high lane of its pair (10_state.md R12). -/
def laneIsHigh : Lane → Bool
  | .a | .b | .d | .h => true
  | .f | .c | .e | .l => false

/-- The high lane of a pair's value: `pair >> 8` (10_state.md R15). -/
def highLane (pair : Word) : Byte := (pair >>> 8).truncate 8

/-- The low lane of a pair's value: `pair & 0xFF` (10_state.md R15). -/
def lowLane (pair : Word) : Byte := (pair &&& 0x00FF#16).truncate 8

/-- `(pair & 0x00FF) | (value << 8)` (10_state.md R16). -/
def withHighLane (pair : Word) (v : Byte) : Word := (pair &&& 0x00FF#16) ||| (v.zeroExtend 16 <<< 8)

/-- `(pair & 0xFF00) | value` (10_state.md R16). -/
def withLowLane (pair : Word) (v : Byte) : Word := (pair &&& 0xFF00#16) ||| v.zeroExtend 16

/-- `read_u8` (10_state.md R15). -/
def State.readU8 (s : State) (lane : Lane) : Byte :=
  let pair := s.readU16 (lanePair lane)
  if laneIsHigh lane then highLane pair else lowLane pair

/-- `write_u8` (10_state.md R16): the sibling lane keeps its value (R17). -/
def State.writeU8 (s : State) (lane : Lane) (v : Byte) : State :=
  let pair := s.readU16 (lanePair lane)
  s.writeU16 (lanePair lane) (if laneIsHigh lane then withHighLane pair v else withLowLane pair v)

/-- The bit of lane F, and of AF, that holds a flag (10_state.md R18). -/
def flagBit : Flag → Nat
  | .z => 7
  | .n => 6
  | .h => 5
  | .c => 4

/-- The mask of a flag in AF (10_state.md R18). -/
def flagMask : Flag → Word
  | .z => 0x0080#16
  | .n => 0x0040#16
  | .h => 0x0020#16
  | .c => 0x0010#16

/-- `read_flag` (10_state.md R19). -/
def State.readFlag (s : State) (flag : Flag) : Bool := (s.readU8 .f).getLsbD (flagBit flag)

/-- `write_flag` (10_state.md R20). -/
def State.writeFlag (s : State) (flag : Flag) (b : Bool) : State :=
  { s with af := if b then s.af ||| flagMask flag else s.af &&& ~~~(flagMask flag) }

/-! ## Faults and commit -/

/-- PC in 17 bits (10_state.md R25). -/
def State.pc17 (s : State) : Addr := s.pc.zeroExtend 17

/-- The byte at PC: the opcode byte a diagnostic records (60_exceptions.md R201, R202). -/
def State.opcodeByte (s : State) : Byte := s.mem.read s.pc.toNat

/-- Fault entry (60_exceptions.md R203, R204): the status takes the fault and its diagnostic, and nothing else changes. No
register saves anything, there is no handler and no mode; there is no return from a fault (R205), so none stands beside it. -/
def State.raise (s : State) (info : EngineFault) : State := { s with status := .faulted info }

/-- What an instruction's action computes (30_encoding.md R78): the state with its register, flag, memory and status writes,
the next PC in 17 bits, and its entry in `CYCLE_COST`. -/
structure Action where
  written : State
  nextPc : Addr
  cost : CostEntry

/-- Commit under any `CYCLE_COST` table: the next-PC check (10_state.md R25, 60_exceptions.md R202), the overflow refusal
(10_state.md R28), then all the writes at once, PC and `cycles` (30_encoding.md R72, R73). A fault discards the writes
(60_exceptions.md R203). -/
def commitWith (costs : CycleCost) (s : State) (act : Action) : Host.Outcome State Fault Refusal :=
  if Config.memSize ≤ act.nextPc.toNat then
    .next (s.raise (.outOfRange s.pc s.opcodeByte .nextPc act.nextPc))
  else if Config.cycleLimit ≤ s.cycles.toNat + costs act.cost then
    .refused .cycleCounterOverflow
  else
    .next { act.written with
      pc := act.nextPc.truncate 16
      cycles := BitVec.ofNat 64 (s.cycles.toNat + costs act.cost) }

/-- Commit under the default `CYCLE_COST` table (70_reset_and_hazards.md R262; log entry 1). -/
def commit (s : State) (act : Action) : Host.Outcome State Fault Refusal :=
  commitWith Config.cycleCost s act

end Sys2Proof.Machine
end

