-- ==== Sys2Proof/Machine/Flags.lean ====
section
/-! DEFINITION. The ALU results and every flag computation of the spec: `inc8` and `dec8` (44_incdec_r8.md R122, R123), the
right rotate and shift (46_rotate_shift_right.md R130 to R132), and the conditions of the conditional jump (47_jump.md R137). -/

namespace Sys2Proof.Machine

/-- The outputs of `inc8` and `dec8` (R122). -/
structure AluOut where
  res : Byte
  z : Bool
  n : Bool
  h : Bool
  deriving DecidableEq, Repr

/-- `inc8` (R122; 00_scope.md R5): half-carry exactly when the operand's low nibble is 0xF. -/
def aluInc8 (v : Byte) : AluOut where
  res := v + 1#8
  z := v + 1#8 == 0#8
  n := false
  h := v.extractLsb' 0 4 == 0xF#4

/-- `dec8` (R122; 00_scope.md R5): half-carry exactly when the operand's low nibble is 0x0. -/
def aluDec8 (v : Byte) : AluOut where
  res := v - 1#8
  z := v - 1#8 == 0#8
  n := true
  h := v.extractLsb' 0 4 == 0x0#4

/-- The bit shifted out to the right: bit 0 of the operand (R130 to R132). -/
def shiftedOut (v : Byte) : Bool := v.getLsbD 0

/-- `c :: v[7:1]` (R130, R131). -/
def rotateRight1 (v : Byte) : Byte := v.extractLsb' 0 1 ++ v.extractLsb' 1 7

/-- `0b0 :: v[7:1]` (R132). -/
def shiftRight1 (v : Byte) : Byte := 0#1 ++ v.extractLsb' 1 7

/-- The flag writes of `INC r` and `DEC r`: Z, N and H, never C (R120, R121, R123). -/
def State.writeZNH (s : State) (z n h : Bool) : State :=
  ((s.writeFlag .z z).writeFlag .n n).writeFlag .h h

/-- The flag writes of the rotates and the shift: Z, N, H and C (R130 to R132). -/
def State.writeZNHC (s : State) (z n h c : Bool) : State :=
  (s.writeZNH z n h).writeFlag .c c

/-- Whether a condition holds, read from F before any write (R137). -/
def State.cond (s : State) : Cond → Bool
  | .nz => !s.readFlag .z
  | .z => s.readFlag .z
  | .nc => !s.readFlag .c
  | .c => s.readFlag .c

end Sys2Proof.Machine
end

