-- ==== Sys2Proof/Machine/Operands.lean ====
section
/-! DEFINITION. The operand forms (spec/30_encoding.md R63, R76; 42_store_r8_indirect.md; 10_state.md R24): a store address held
in a pair, the next PC of a fall-through, an absolute jump target. A lane or slot operand is read and written through the ports
of Ops.lean, and an immediate is assembled by the decoder. -/

namespace Sys2Proof.Machine

/-- The address a store form writes: the value of its pair, no displacement, the pair unmodified (R110, R111). -/
def State.storeAddress (s : State) (pair : Slot) : Word := s.readU16 pair

/-- `pc + length` in 17 bits, without wrap-around (10_state.md R24, R25). -/
def State.fallThrough (s : State) (length : Nat) : Addr := s.pc17 + BitVec.ofNat 17 length

/-- A jump target: the 16-bit immediate, to which nothing is added (47_jump.md R135). -/
def jumpTarget (imm16 : Word) : Addr := imm16.zeroExtend 17

end Sys2Proof.Machine
end

