-- ==== Sys2Proof/Machine/Halt.lean ====
section
/-! DEFINITION. The halt instruction (spec/48_halt.md R140). -/

namespace Sys2Proof.Machine

/-- `HALT` (R140): PC and `cycles` advance and the status records the address of the opcode. -/
def haltEngine (length : Nat) (s : State) : Action :=
  { written := { s with status := .halted s.pc }, nextPc := s.fallThrough length, cost := .halt }

/-- The action of `HALT` (R140). -/
def actHalt (s : State) : Action := haltEngine Instr.halt.length s

/-- `HALT` (R140). -/
def execHalt (s : State) : Host.Outcome State Fault Refusal := commit s (actHalt s)

end Sys2Proof.Machine
end

