-- ==== Sys2Proof/Machine/IncDec16.lean ====
section
/-! DEFINITION. Increment and decrement a 16-bit slot (spec/43_incdec_r16.md R115, R116). -/

namespace Sys2Proof.Machine

/-- `INC rr` (R115): plus one modulo 2^16 (00_scope.md R5); no flag changes. -/
def incSlot (length : Nat) (slot : Slot) (s : State) : Action :=
  { written := s.writeU16 slot (s.readU16 slot + 1#16), nextPc := s.fallThrough length, cost := .incRr }

/-- `DEC rr` (R116): minus one modulo 2^16 (00_scope.md R5); no flag changes. -/
def decSlot (length : Nat) (slot : Slot) (s : State) : Action :=
  { written := s.writeU16 slot (s.readU16 slot - 1#16), nextPc := s.fallThrough length, cost := .decRr }

/-- The action of `INC BC` (R115). -/
def actIncBc (s : State) : Action := incSlot Instr.incBc.length .bc s

/-- `INC BC` (R115). -/
def execIncBc (s : State) : Host.Outcome State Fault Refusal := commit s (actIncBc s)

/-- The action of `INC DE` (R115). -/
def actIncDe (s : State) : Action := incSlot Instr.incDe.length .de s

/-- `INC DE` (R115). -/
def execIncDe (s : State) : Host.Outcome State Fault Refusal := commit s (actIncDe s)

/-- The action of `INC HL` (R115). -/
def actIncHl (s : State) : Action := incSlot Instr.incHl.length .hl s

/-- `INC HL` (R115). -/
def execIncHl (s : State) : Host.Outcome State Fault Refusal := commit s (actIncHl s)

/-- The action of `INC SP` (R115). -/
def actIncSp (s : State) : Action := incSlot Instr.incSp.length .sp s

/-- `INC SP` (R115). -/
def execIncSp (s : State) : Host.Outcome State Fault Refusal := commit s (actIncSp s)

/-- The action of `DEC BC` (R116). -/
def actDecBc (s : State) : Action := decSlot Instr.decBc.length .bc s

/-- `DEC BC` (R116). -/
def execDecBc (s : State) : Host.Outcome State Fault Refusal := commit s (actDecBc s)

/-- The action of `DEC DE` (R116). -/
def actDecDe (s : State) : Action := decSlot Instr.decDe.length .de s

/-- `DEC DE` (R116). -/
def execDecDe (s : State) : Host.Outcome State Fault Refusal := commit s (actDecDe s)

/-- The action of `DEC HL` (R116). -/
def actDecHl (s : State) : Action := decSlot Instr.decHl.length .hl s

/-- `DEC HL` (R116). -/
def execDecHl (s : State) : Host.Outcome State Fault Refusal := commit s (actDecHl s)

/-- The action of `DEC SP` (R116). -/
def actDecSp (s : State) : Action := decSlot Instr.decSp.length .sp s

/-- `DEC SP` (R116). -/
def execDecSp (s : State) : Host.Outcome State Fault Refusal := commit s (actDecSp s)

end Sys2Proof.Machine
end

