-- ==== Sys2Proof/Machine/IncDec8.lean ====
section
/-! DEFINITION. Increment and decrement an 8-bit lane with the Z, N and H flags (spec/44_incdec_r8.md R120 to R123). -/

namespace Sys2Proof.Machine

/-- The lane and the flags of an ALU output (R120, R121); the Carry flag is not written (R123). -/
def State.writeAlu (s : State) (lane : Lane) (out : AluOut) : State :=
  (s.writeU8 lane out.res).writeZNH out.z out.n out.h

/-- `INC r` (R120). -/
def incLane (length : Nat) (lane : Lane) (s : State) : Action :=
  { written := s.writeAlu lane (aluInc8 (s.readU8 lane)), nextPc := s.fallThrough length, cost := .incR }

/-- `DEC r` (R121). -/
def decLane (length : Nat) (lane : Lane) (s : State) : Action :=
  { written := s.writeAlu lane (aluDec8 (s.readU8 lane)), nextPc := s.fallThrough length, cost := .decR }

/-- The action of `INC B` (R120). -/
def actIncB (s : State) : Action := incLane Instr.incB.length .b s

/-- `INC B` (R120). -/
def execIncB (s : State) : Host.Outcome State Fault Refusal := commit s (actIncB s)

/-- The action of `INC C` (R120). -/
def actIncC (s : State) : Action := incLane Instr.incC.length .c s

/-- `INC C` (R120). -/
def execIncC (s : State) : Host.Outcome State Fault Refusal := commit s (actIncC s)

/-- The action of `INC D` (R120). -/
def actIncD (s : State) : Action := incLane Instr.incD.length .d s

/-- `INC D` (R120). -/
def execIncD (s : State) : Host.Outcome State Fault Refusal := commit s (actIncD s)

/-- The action of `INC E` (R120). -/
def actIncE (s : State) : Action := incLane Instr.incE.length .e s

/-- `INC E` (R120). -/
def execIncE (s : State) : Host.Outcome State Fault Refusal := commit s (actIncE s)

/-- The action of `INC H` (R120). -/
def actIncH (s : State) : Action := incLane Instr.incH.length .h s

/-- `INC H` (R120). -/
def execIncH (s : State) : Host.Outcome State Fault Refusal := commit s (actIncH s)

/-- The action of `INC L` (R120). -/
def actIncL (s : State) : Action := incLane Instr.incL.length .l s

/-- `INC L` (R120). -/
def execIncL (s : State) : Host.Outcome State Fault Refusal := commit s (actIncL s)

/-- The action of `INC A` (R120). -/
def actIncA (s : State) : Action := incLane Instr.incA.length .a s

/-- `INC A` (R120). -/
def execIncA (s : State) : Host.Outcome State Fault Refusal := commit s (actIncA s)

/-- The action of `DEC B` (R121). -/
def actDecB (s : State) : Action := decLane Instr.decB.length .b s

/-- `DEC B` (R121). -/
def execDecB (s : State) : Host.Outcome State Fault Refusal := commit s (actDecB s)

/-- The action of `DEC C` (R121). -/
def actDecC (s : State) : Action := decLane Instr.decC.length .c s

/-- `DEC C` (R121). -/
def execDecC (s : State) : Host.Outcome State Fault Refusal := commit s (actDecC s)

/-- The action of `DEC D` (R121). -/
def actDecD (s : State) : Action := decLane Instr.decD.length .d s

/-- `DEC D` (R121). -/
def execDecD (s : State) : Host.Outcome State Fault Refusal := commit s (actDecD s)

/-- The action of `DEC E` (R121). -/
def actDecE (s : State) : Action := decLane Instr.decE.length .e s

/-- `DEC E` (R121). -/
def execDecE (s : State) : Host.Outcome State Fault Refusal := commit s (actDecE s)

/-- The action of `DEC H` (R121). -/
def actDecH (s : State) : Action := decLane Instr.decH.length .h s

/-- `DEC H` (R121). -/
def execDecH (s : State) : Host.Outcome State Fault Refusal := commit s (actDecH s)

/-- The action of `DEC L` (R121). -/
def actDecL (s : State) : Action := decLane Instr.decL.length .l s

/-- `DEC L` (R121). -/
def execDecL (s : State) : Host.Outcome State Fault Refusal := commit s (actDecL s)

/-- The action of `DEC A` (R121). -/
def actDecA (s : State) : Action := decLane Instr.decA.length .a s

/-- `DEC A` (R121). -/
def execDecA (s : State) : Host.Outcome State Fault Refusal := commit s (actDecA s)

end Sys2Proof.Machine
end

