-- ==== Sys2Proof/Machine/Jump.lean ====
section
/-! DEFINITION. Absolute jumps (spec/47_jump.md R135 to R137). -/

namespace Sys2Proof.Machine

/-- `JP a16` (R135): the length is not added. -/
def jumpAbsolute (imm16 : Word) (s : State) : Action :=
  { written := s, nextPc := jumpTarget imm16, cost := .jpA16 }

/-- `JP cc,a16` (R136): the target and the taken cost if the condition holds, else the fall-through and the not-taken cost. -/
def jumpIf (length : Nat) (cc : Cond) (imm16 : Word) (s : State) : Action :=
  if s.cond cc then { written := s, nextPc := jumpTarget imm16, cost := .jpCcTaken }
  else { written := s, nextPc := s.fallThrough length, cost := .jpCcNotTaken }

/-- The action of `JP a16` (R135). -/
def actJpA16 (imm16 : Word) (s : State) : Action := jumpAbsolute imm16 s

/-- `JP a16` (R135). -/
def execJpA16 (imm16 : Word) (s : State) : Host.Outcome State Fault Refusal := commit s (actJpA16 imm16 s)

/-- The action of `JP NZ,a16` (R136). -/
def actJpNzA16 (imm16 : Word) (s : State) : Action := jumpIf (Instr.jpNzA16 imm16).length .nz imm16 s

/-- `JP NZ,a16` (R136). -/
def execJpNzA16 (imm16 : Word) (s : State) : Host.Outcome State Fault Refusal := commit s (actJpNzA16 imm16 s)

/-- The action of `JP Z,a16` (R136). -/
def actJpZA16 (imm16 : Word) (s : State) : Action := jumpIf (Instr.jpZA16 imm16).length .z imm16 s

/-- `JP Z,a16` (R136). -/
def execJpZA16 (imm16 : Word) (s : State) : Host.Outcome State Fault Refusal := commit s (actJpZA16 imm16 s)

/-- The action of `JP NC,a16` (R136). -/
def actJpNcA16 (imm16 : Word) (s : State) : Action := jumpIf (Instr.jpNcA16 imm16).length .nc imm16 s

/-- `JP NC,a16` (R136). -/
def execJpNcA16 (imm16 : Word) (s : State) : Host.Outcome State Fault Refusal := commit s (actJpNcA16 imm16 s)

/-- The action of `JP C,a16` (R136). -/
def actJpCA16 (imm16 : Word) (s : State) : Action := jumpIf (Instr.jpCA16 imm16).length .c imm16 s

/-- `JP C,a16` (R136). -/
def execJpCA16 (imm16 : Word) (s : State) : Host.Outcome State Fault Refusal := commit s (actJpCA16 imm16 s)

end Sys2Proof.Machine
end

