-- ==== Sys2Proof/Machine/LoadImm16.lean ====
section
/-! DEFINITION. Load a 16-bit immediate into a slot (spec/41_ld_r16_d16.md R105). -/

namespace Sys2Proof.Machine

/-- `LD rr,d16` (R105): the immediate goes into the slot verbatim; no flag changes. -/
def loadSlot (length : Nat) (slot : Slot) (imm16 : Word) (s : State) : Action :=
  { written := s.writeU16 slot imm16, nextPc := s.fallThrough length, cost := .ldRrD16 }

/-- The action of `LD BC,d16` (R105). -/
def actLdBcD16 (imm16 : Word) (s : State) : Action := loadSlot (Instr.ldBcD16 imm16).length .bc imm16 s

/-- `LD BC,d16` (R105). -/
def execLdBcD16 (imm16 : Word) (s : State) : Host.Outcome State Fault Refusal := commit s (actLdBcD16 imm16 s)

/-- The action of `LD DE,d16` (R105). -/
def actLdDeD16 (imm16 : Word) (s : State) : Action := loadSlot (Instr.ldDeD16 imm16).length .de imm16 s

/-- `LD DE,d16` (R105). -/
def execLdDeD16 (imm16 : Word) (s : State) : Host.Outcome State Fault Refusal := commit s (actLdDeD16 imm16 s)

/-- The action of `LD HL,d16` (R105). -/
def actLdHlD16 (imm16 : Word) (s : State) : Action := loadSlot (Instr.ldHlD16 imm16).length .hl imm16 s

/-- `LD HL,d16` (R105). -/
def execLdHlD16 (imm16 : Word) (s : State) : Host.Outcome State Fault Refusal := commit s (actLdHlD16 imm16 s)

/-- The action of `LD SP,d16` (R105). -/
def actLdSpD16 (imm16 : Word) (s : State) : Action := loadSlot (Instr.ldSpD16 imm16).length .sp imm16 s

/-- `LD SP,d16` (R105). -/
def execLdSpD16 (imm16 : Word) (s : State) : Host.Outcome State Fault Refusal := commit s (actLdSpD16 imm16 s)

end Sys2Proof.Machine
end

