-- ==== Sys2Proof/Machine/LoadImm8.lean ====
section
/-! DEFINITION. Load an 8-bit immediate into a lane (spec/45_ld_r8_d8.md R125). -/

namespace Sys2Proof.Machine

/-- `LD r,d8` (R125): the immediate goes into the lane as it is; no flag changes. -/
def loadLane (length : Nat) (lane : Lane) (imm8 : Byte) (s : State) : Action :=
  { written := s.writeU8 lane imm8, nextPc := s.fallThrough length, cost := .ldRD8 }

/-- The action of `LD B,d8` (R125). -/
def actLdBD8 (imm8 : Byte) (s : State) : Action := loadLane (Instr.ldBD8 imm8).length .b imm8 s

/-- `LD B,d8` (R125). -/
def execLdBD8 (imm8 : Byte) (s : State) : Host.Outcome State Fault Refusal := commit s (actLdBD8 imm8 s)

/-- The action of `LD C,d8` (R125). -/
def actLdCD8 (imm8 : Byte) (s : State) : Action := loadLane (Instr.ldCD8 imm8).length .c imm8 s

/-- `LD C,d8` (R125). -/
def execLdCD8 (imm8 : Byte) (s : State) : Host.Outcome State Fault Refusal := commit s (actLdCD8 imm8 s)

/-- The action of `LD D,d8` (R125). -/
def actLdDD8 (imm8 : Byte) (s : State) : Action := loadLane (Instr.ldDD8 imm8).length .d imm8 s

/-- `LD D,d8` (R125). -/
def execLdDD8 (imm8 : Byte) (s : State) : Host.Outcome State Fault Refusal := commit s (actLdDD8 imm8 s)

/-- The action of `LD E,d8` (R125). -/
def actLdED8 (imm8 : Byte) (s : State) : Action := loadLane (Instr.ldED8 imm8).length .e imm8 s

/-- `LD E,d8` (R125). -/
def execLdED8 (imm8 : Byte) (s : State) : Host.Outcome State Fault Refusal := commit s (actLdED8 imm8 s)

/-- The action of `LD H,d8` (R125). -/
def actLdHD8 (imm8 : Byte) (s : State) : Action := loadLane (Instr.ldHD8 imm8).length .h imm8 s

/-- `LD H,d8` (R125). -/
def execLdHD8 (imm8 : Byte) (s : State) : Host.Outcome State Fault Refusal := commit s (actLdHD8 imm8 s)

/-- The action of `LD L,d8` (R125). -/
def actLdLD8 (imm8 : Byte) (s : State) : Action := loadLane (Instr.ldLD8 imm8).length .l imm8 s

/-- `LD L,d8` (R125). -/
def execLdLD8 (imm8 : Byte) (s : State) : Host.Outcome State Fault Refusal := commit s (actLdLD8 imm8 s)

/-- The action of `LD A,d8` (R125). -/
def actLdAD8 (imm8 : Byte) (s : State) : Action := loadLane (Instr.ldAD8 imm8).length .a imm8 s

/-- `LD A,d8` (R125). -/
def execLdAD8 (imm8 : Byte) (s : State) : Host.Outcome State Fault Refusal := commit s (actLdAD8 imm8 s)

end Sys2Proof.Machine
end

