-- ==== Sys2Proof/Machine/Nop.lean ====
section
/-! DEFINITION. The no-op instruction (spec/40_nop.md R100). -/

namespace Sys2Proof.Machine

/-- Advance by the declared length and do nothing else (R100). -/
def noOp (length : Nat) (s : State) : Action :=
  { written := s, nextPc := s.fallThrough length, cost := .nop }

/-- The action of `NOP` (R100). -/
def actNop (s : State) : Action := noOp Instr.nop.length s

/-- `NOP` (R100). -/
def execNop (s : State) : Host.Outcome State Fault Refusal := commit s (actNop s)

end Sys2Proof.Machine
end

