-- ==== Sys2Proof/Machine/RotateShift.lean ====
section
/-! DEFINITION. Rotate and shift a lane right by one bit (spec/46_rotate_shift_right.md R130 to R132). -/

namespace Sys2Proof.Machine

/-- The accumulator rotate (R130): Z is written 0 whatever the result. -/
def rotateLaneClearZ (length : Nat) (lane : Lane) (s : State) : Action :=
  let v := s.readU8 lane
  { written := (s.writeU8 lane (rotateRight1 v)).writeZNHC false false false (shiftedOut v)
    nextPc := s.fallThrough length
    cost := .rrca }

/-- `RRC r` (R131). -/
def rotateLane (length : Nat) (lane : Lane) (s : State) : Action :=
  let v := s.readU8 lane
  { written := (s.writeU8 lane (rotateRight1 v)).writeZNHC (rotateRight1 v == 0#8) false false (shiftedOut v)
    nextPc := s.fallThrough length
    cost := .rrcR }

/-- `SRL r` (R132). -/
def shiftLane (length : Nat) (lane : Lane) (s : State) : Action :=
  let v := s.readU8 lane
  { written := (s.writeU8 lane (shiftRight1 v)).writeZNHC (shiftRight1 v == 0#8) false false (shiftedOut v)
    nextPc := s.fallThrough length
    cost := .srlR }

/-- The action of `RRCA` (R130). -/
def actRrca (s : State) : Action := rotateLaneClearZ Instr.rrca.length .a s

/-- `RRCA` (R130). -/
def execRrca (s : State) : Host.Outcome State Fault Refusal := commit s (actRrca s)

/-- The action of `RRC B` (R131). -/
def actRrcB (s : State) : Action := rotateLane Instr.rrcB.length .b s

/-- `RRC B` (R131). -/
def execRrcB (s : State) : Host.Outcome State Fault Refusal := commit s (actRrcB s)

/-- The action of `RRC C` (R131). -/
def actRrcC (s : State) : Action := rotateLane Instr.rrcC.length .c s

/-- `RRC C` (R131). -/
def execRrcC (s : State) : Host.Outcome State Fault Refusal := commit s (actRrcC s)

/-- The action of `RRC D` (R131). -/
def actRrcD (s : State) : Action := rotateLane Instr.rrcD.length .d s

/-- `RRC D` (R131). -/
def execRrcD (s : State) : Host.Outcome State Fault Refusal := commit s (actRrcD s)

/-- The action of `RRC E` (R131). -/
def actRrcE (s : State) : Action := rotateLane Instr.rrcE.length .e s

/-- `RRC E` (R131). -/
def execRrcE (s : State) : Host.Outcome State Fault Refusal := commit s (actRrcE s)

/-- The action of `RRC H` (R131). -/
def actRrcH (s : State) : Action := rotateLane Instr.rrcH.length .h s

/-- `RRC H` (R131). -/
def execRrcH (s : State) : Host.Outcome State Fault Refusal := commit s (actRrcH s)

/-- The action of `RRC L` (R131). -/
def actRrcL (s : State) : Action := rotateLane Instr.rrcL.length .l s

/-- `RRC L` (R131). -/
def execRrcL (s : State) : Host.Outcome State Fault Refusal := commit s (actRrcL s)

/-- The action of `RRC A` (R131). -/
def actRrcA (s : State) : Action := rotateLane Instr.rrcA.length .a s

/-- `RRC A` (R131). -/
def execRrcA (s : State) : Host.Outcome State Fault Refusal := commit s (actRrcA s)

/-- The action of `SRL B` (R132). -/
def actSrlB (s : State) : Action := shiftLane Instr.srlB.length .b s

/-- `SRL B` (R132). -/
def execSrlB (s : State) : Host.Outcome State Fault Refusal := commit s (actSrlB s)

/-- The action of `SRL C` (R132). -/
def actSrlC (s : State) : Action := shiftLane Instr.srlC.length .c s

/-- `SRL C` (R132). -/
def execSrlC (s : State) : Host.Outcome State Fault Refusal := commit s (actSrlC s)

/-- The action of `SRL D` (R132). -/
def actSrlD (s : State) : Action := shiftLane Instr.srlD.length .d s

/-- `SRL D` (R132). -/
def execSrlD (s : State) : Host.Outcome State Fault Refusal := commit s (actSrlD s)

/-- The action of `SRL E` (R132). -/
def actSrlE (s : State) : Action := shiftLane Instr.srlE.length .e s

/-- `SRL E` (R132). -/
def execSrlE (s : State) : Host.Outcome State Fault Refusal := commit s (actSrlE s)

/-- The action of `SRL H` (R132). -/
def actSrlH (s : State) : Action := shiftLane Instr.srlH.length .h s

/-- `SRL H` (R132). -/
def execSrlH (s : State) : Host.Outcome State Fault Refusal := commit s (actSrlH s)

/-- The action of `SRL L` (R132). -/
def actSrlL (s : State) : Action := shiftLane Instr.srlL.length .l s

/-- `SRL L` (R132). -/
def execSrlL (s : State) : Host.Outcome State Fault Refusal := commit s (actSrlL s)

/-- The action of `SRL A` (R132). -/
def actSrlA (s : State) : Action := shiftLane Instr.srlA.length .a s

/-- `SRL A` (R132). -/
def execSrlA (s : State) : Host.Outcome State Fault Refusal := commit s (actSrlA s)

end Sys2Proof.Machine
end

