-- ==== Sys2Proof/Machine/Store.lean ====
section
/-! DEFINITION. Store a lane at the address held in a pair (spec/42_store_r8_indirect.md R110, R111). -/

namespace Sys2Proof.Machine

/-- A store of a lane through a pair (R110, R111): only memory changes; address and datum are read before the write. -/
def storeLane (length : Nat) (pair : Slot) (lane : Lane) (cost : CostEntry) (s : State) : Action :=
  { written := s.memWrite (s.storeAddress pair) (s.readU8 lane), nextPc := s.fallThrough length, cost := cost }

/-- The action of `LD (BC),A` (R110). -/
def actLdIndBcA (s : State) : Action := storeLane Instr.ldIndBcA.length .bc .a .ldIndPpA s

/-- `LD (BC),A` (R110). -/
def execLdIndBcA (s : State) : Host.Outcome State Fault Refusal := commit s (actLdIndBcA s)

/-- The action of `LD (DE),A` (R110). -/
def actLdIndDeA (s : State) : Action := storeLane Instr.ldIndDeA.length .de .a .ldIndPpA s

/-- `LD (DE),A` (R110). -/
def execLdIndDeA (s : State) : Host.Outcome State Fault Refusal := commit s (actLdIndDeA s)

/-- The action of `LD (HL),B` (R111). -/
def actLdIndHlB (s : State) : Action := storeLane Instr.ldIndHlB.length .hl .b .ldIndHlR s

/-- `LD (HL),B` (R111). -/
def execLdIndHlB (s : State) : Host.Outcome State Fault Refusal := commit s (actLdIndHlB s)

/-- The action of `LD (HL),C` (R111). -/
def actLdIndHlC (s : State) : Action := storeLane Instr.ldIndHlC.length .hl .c .ldIndHlR s

/-- `LD (HL),C` (R111). -/
def execLdIndHlC (s : State) : Host.Outcome State Fault Refusal := commit s (actLdIndHlC s)

/-- The action of `LD (HL),D` (R111). -/
def actLdIndHlD (s : State) : Action := storeLane Instr.ldIndHlD.length .hl .d .ldIndHlR s

/-- `LD (HL),D` (R111). -/
def execLdIndHlD (s : State) : Host.Outcome State Fault Refusal := commit s (actLdIndHlD s)

/-- The action of `LD (HL),E` (R111). -/
def actLdIndHlE (s : State) : Action := storeLane Instr.ldIndHlE.length .hl .e .ldIndHlR s

/-- `LD (HL),E` (R111). -/
def execLdIndHlE (s : State) : Host.Outcome State Fault Refusal := commit s (actLdIndHlE s)

/-- The action of `LD (HL),H` (R111). -/
def actLdIndHlH (s : State) : Action := storeLane Instr.ldIndHlH.length .hl .h .ldIndHlR s

/-- `LD (HL),H` (R111). -/
def execLdIndHlH (s : State) : Host.Outcome State Fault Refusal := commit s (actLdIndHlH s)

/-- The action of `LD (HL),L` (R111). -/
def actLdIndHlL (s : State) : Action := storeLane Instr.ldIndHlL.length .hl .l .ldIndHlR s

/-- `LD (HL),L` (R111). -/
def execLdIndHlL (s : State) : Host.Outcome State Fault Refusal := commit s (actLdIndHlL s)

/-- The action of `LD (HL),A` (R111). -/
def actLdIndHlA (s : State) : Action := storeLane Instr.ldIndHlA.length .hl .a .ldIndHlR s

/-- `LD (HL),A` (R111). -/
def execLdIndHlA (s : State) : Host.Outcome State Fault Refusal := commit s (actLdIndHlA s)

end Sys2Proof.Machine
end

