-- ==== Sys2Proof/Machine/Actions.lean ====
section
/-! DEFINITION. The actions of all instructions (spec/30_encoding.md R78), and execution under any `CYCLE_COST` table
(70_reset_and_hazards.md R262; 93_implementation_defined.md I6). -/

namespace Sys2Proof.Machine

/-- What the action phase of a step computes for an instruction (30_encoding.md R78). No action depends on a cost
(70_reset_and_hazards.md R263). -/
def actionOf (i : Instr) (s : State) : Action :=
  match i with
  | .nop => actNop s
  | .ldBcD16 imm16 => actLdBcD16 imm16 s
  | .ldIndBcA => actLdIndBcA s
  | .incBc => actIncBc s
  | .incB => actIncB s
  | .decB => actDecB s
  | .ldBD8 imm8 => actLdBD8 imm8 s
  | .decBc => actDecBc s
  | .incC => actIncC s
  | .decC => actDecC s
  | .ldCD8 imm8 => actLdCD8 imm8 s
  | .rrca => actRrca s
  | .ldDeD16 imm16 => actLdDeD16 imm16 s
  | .ldIndDeA => actLdIndDeA s
  | .incDe => actIncDe s
  | .incD => actIncD s
  | .decD => actDecD s
  | .ldDD8 imm8 => actLdDD8 imm8 s
  | .decDe => actDecDe s
  | .incE => actIncE s
  | .decE => actDecE s
  | .ldED8 imm8 => actLdED8 imm8 s
  | .ldHlD16 imm16 => actLdHlD16 imm16 s
  | .incHl => actIncHl s
  | .incH => actIncH s
  | .decH => actDecH s
  | .ldHD8 imm8 => actLdHD8 imm8 s
  | .decHl => actDecHl s
  | .incL => actIncL s
  | .decL => actDecL s
  | .ldLD8 imm8 => actLdLD8 imm8 s
  | .ldSpD16 imm16 => actLdSpD16 imm16 s
  | .incSp => actIncSp s
  | .decSp => actDecSp s
  | .incA => actIncA s
  | .decA => actDecA s
  | .ldAD8 imm8 => actLdAD8 imm8 s
  | .ldIndHlB => actLdIndHlB s
  | .ldIndHlC => actLdIndHlC s
  | .ldIndHlD => actLdIndHlD s
  | .ldIndHlE => actLdIndHlE s
  | .ldIndHlH => actLdIndHlH s
  | .ldIndHlL => actLdIndHlL s
  | .halt => actHalt s
  | .ldIndHlA => actLdIndHlA s
  | .jpNzA16 imm16 => actJpNzA16 imm16 s
  | .jpA16 imm16 => actJpA16 imm16 s
  | .jpZA16 imm16 => actJpZA16 imm16 s
  | .jpNcA16 imm16 => actJpNcA16 imm16 s
  | .jpCA16 imm16 => actJpCA16 imm16 s
  | .rrcB => actRrcB s
  | .rrcC => actRrcC s
  | .rrcD => actRrcD s
  | .rrcE => actRrcE s
  | .rrcH => actRrcH s
  | .rrcL => actRrcL s
  | .rrcA => actRrcA s
  | .srlB => actSrlB s
  | .srlC => actSrlC s
  | .srlD => actSrlD s
  | .srlE => actSrlE s
  | .srlH => actSrlH s
  | .srlL => actSrlL s
  | .srlA => actSrlA s

/-- Execution under a `CYCLE_COST` table that the model takes as an argument (93_implementation_defined.md I6). `exec` is this at
the default table. -/
def execWith (costs : CycleCost) (i : Instr) (s : State) : Host.Outcome State Fault Refusal :=
  commitWith costs s (actionOf i s)

end Sys2Proof.Machine
end

