-- ==== Sys2Proof/Machine/Fetch.lean ====
section
/-! DEFINITION. Fetch and decode of a step (spec/30_encoding.md R64, R65, R67, R69, R78) with the faults they raise
(60_exceptions.md R201, R202, R207), and the placing of an instruction's bytes at PC for the host. -/

namespace Sys2Proof.Machine

/-- The bytes at `pc`, `pc + 1` and `pc + 2` that exist, in ascending order, each address formed in 17 bits (20_memory.md R41,
R50). Reading a byte has no effect (R47), so that the model reads all three before it decodes is not observable (log entry 8). -/
def State.fetchBytes (s : State) : List Byte :=
  [0, 1, 2].filterMap (fun k => s.memRead (s.fallThrough k))

/-- Fetch and decode: the instruction at PC, or the fault the step raises. The first byte the decoder misses is the first
operand address out of range (60_exceptions.md R207). -/
def State.fetch (s : State) : Except EngineFault Instr :=
  match decode s.fetchBytes with
  | .ok i _ => .ok i
  | .unknownOpcode byte subop => .error (.unknownOpcode s.pc byte subop)
  | .missingByte offset => .error (.outOfRange s.pc s.opcodeByte .operandRead (s.fallThrough offset))

/-- The bytes stored from address `a` on, as far as they lie in memory. -/
def Memory.writeBytes : Memory → Nat → List Byte → Memory
  | m, _, [] => m
  | m, a, v :: vs => if a < Config.memSize then Memory.writeBytes (m.write a v) (a + 1) vs else m

/-- The state with an instruction's bytes in memory from PC on. -/
def State.placeAtPc (s : State) (bytes : List Byte) : State :=
  { s with mem := Memory.writeBytes s.mem s.pc.toNat bytes }

end Sys2Proof.Machine
end

