-- ==== Sys2Proof/Machine/Step.lean ====
section
/-! DEFINITION. One step of the engine (spec/30_encoding.md R78), under the default `CYCLE_COST` table and under any other
(70_reset_and_hazards.md R262), and the host's placing of an instruction. -/

namespace Sys2Proof.Machine

/-- One step (30_encoding.md R78) with the way an instruction executes as an argument. It is enabled only when the status is
Running (10_state.md R29): an instruction runs, or the fault of its fetch or decode is raised. Asked for in another status it
is not a step (70_reset_and_hazards.md R256): the model is stuck, by name, and nothing changes (log entry 2). -/
def stepUsing (execute : Instr → State → Host.Outcome State Fault Refusal) (s : State) :
    Host.Outcome State Fault Refusal :=
  match s.status with
  | .running =>
    match s.fetch with
    | .ok i => execute i s
    | .error info => .next (s.raise info)
  | .halted addr => .fault (.engineHalted addr)
  | .faulted info => .fault (.engineFaulted info)

/-- One step under a `CYCLE_COST` table (R262; 93_implementation_defined.md I6). -/
def stepWith (costs : CycleCost) (s : State) : Host.Outcome State Fault Refusal := stepUsing (execWith costs) s

/-- One step of the machine with the default table (log entry 1). -/
def step (s : State) : Host.Outcome State Fault Refusal := stepUsing exec s

/-- The state with the instruction whose `nbits` bits are `w` (numbered as `decodeTableWord` numbers them) stored at PC. It
stands for a `load` of an image that holds these bytes at PC (log entry 5). -/
def State.withFetchWord (s : State) (nbits w : Nat) : State := s.placeAtPc (tableBytes nbits w)

end Sys2Proof.Machine
end

