-- ==== Sys2Proof/WellFormed.lean ====
section
/-! DEFINITION. What makes an instruction, a program image and a `CYCLE_COST` table well formed. -/

namespace Sys2Proof

/-- Every term of `Instr` is a well-formed instruction: an operand register is part of the constructor, and an immediate is a
`Byte` or a `Word` of which any value is legal (30_encoding.md R62, R63; 47_jump.md: "any 16-bit value is a legal target").
So there is nothing left to check, and the predicate says so constructor by constructor. -/
def Instr.wellFormed : Instr → Bool
  | .nop | .rrca | .halt => true
  | .ldBcD16 _ | .ldDeD16 _ | .ldHlD16 _ | .ldSpD16 _ => true
  | .ldIndBcA | .ldIndDeA => true
  | .ldIndHlB | .ldIndHlC | .ldIndHlD | .ldIndHlE | .ldIndHlH | .ldIndHlL | .ldIndHlA => true
  | .incBc | .incDe | .incHl | .incSp | .decBc | .decDe | .decHl | .decSp => true
  | .incB | .incC | .incD | .incE | .incH | .incL | .incA => true
  | .decB | .decC | .decD | .decE | .decH | .decL | .decA => true
  | .ldBD8 _ | .ldCD8 _ | .ldDD8 _ | .ldED8 _ | .ldHD8 _ | .ldLD8 _ | .ldAD8 _ => true
  | .rrcB | .rrcC | .rrcD | .rrcE | .rrcH | .rrcL | .rrcA => true
  | .srlB | .srlC | .srlD | .srlE | .srlH | .srlL | .srlA => true
  | .jpA16 _ | .jpNzA16 _ | .jpZA16 _ | .jpNcA16 _ | .jpCA16 _ => true

/-- The length check on a program image (60_exceptions.md R208): at most `MEM_SIZE` bytes, equality admitted. -/
def imageLengthOk (length : Nat) : Bool := decide (length ≤ Config.memSize)

/-- The constraint a `CYCLE_COST` table must meet (70_reset_and_hazards.md R262): `CYCLE_COST[NOP]` is the minimum. That every
cost is a non-negative integer, and depends on nothing but the entry, is in the type. -/
def CycleCost.wellFormed (costs : CycleCost) : Bool :=
  CostEntry.all.all (fun e => decide (costs .nop ≤ costs e))

end Sys2Proof
end

