-- ==== Sys2Proof/Machine/Load.lean ====
section
/-! DEFINITION. The only reset, `load(image)` (spec/70_reset_and_hazards.md R250 to R253), and its error (60_exceptions.md
R208). -/

namespace Sys2Proof.Machine

/-- What `load` answers (R250, R256): an engine in the reset state, or the load-time error with the image's length (R208). -/
inductive LoadResult
  | loaded (s : State)
  | imageTooLarge (length : Nat)
  deriving DecidableEq, Repr

/-- The memory that holds the bytes from address `a` on and 0x00 elsewhere. -/
def Memory.ofImage : Nat → List Byte → Memory
  | _, [] => []
  | a, v :: vs => if v = 0#8 then Memory.ofImage (a + 1) vs else (a, v) :: Memory.ofImage (a + 1) vs

/-- `load(image)` (R250): all-or-nothing (R252), the image at address 0 verbatim, everything else at its reset value. -/
def load (image : List Byte) : LoadResult :=
  if imageLengthOk image.length then
    .loaded { State.reset with mem := Memory.ofImage Config.loadOrigin image }
  else .imageTooLarge image.length

/-- `load` asked of an existing engine: a failed load leaves it unchanged (60_exceptions.md R208), a successful one replaces
it, whatever its status (10_state.md R29). -/
def State.reload (s : State) (image : List Byte) : State :=
  match load image with
  | .loaded t => t
  | .imageTooLarge _ => s

end Sys2Proof.Machine
end

