-- ==== Sys2Proof/Machine/Run.lean ====
section
/-! DEFINITION. The run loop (spec/70_reset_and_hazards.md R257, R258), bounded by fuel because a run need not end
(93_implementation_defined.md I12; log entry 7), and the machine of each `CYCLE_COST` table (R262). -/

namespace Sys2Proof.Machine

/-- The run loop over a step: steps are taken while the status is Running, at most as many as the fuel (R257). -/
def runUsing (next : State → Host.Outcome State Fault Refusal) : Nat → State → Host.Outcome State Fault Refusal
  | 0, s => .next s
  | fuel + 1, s =>
    if s.status = .running then
      match next s with
      | .next t => runUsing next fuel t
      | .fault r => .fault r
      | .refused r => .refused r
    else .next s

/-- The run loop of the machine with the default table. -/
def run (fuel : Nat) (s : State) : Host.Outcome State Fault Refusal := runUsing step fuel s

/-- The run loop under a `CYCLE_COST` table (R262; 93_implementation_defined.md I6). -/
def runWith (costs : CycleCost) (fuel : Nat) (s : State) : Host.Outcome State Fault Refusal :=
  runUsing (stepWith costs) fuel s

/-- The machine of a `CYCLE_COST` table, in the host's terms; `Sys2Proof.core` is the one of the default table. -/
def coreWith (costs : CycleCost) : Host.Core where
  State := State
  Fault := Fault
  Refusal := Refusal
  step := stepWith costs
  reset := State.reset

end Sys2Proof.Machine
end

