-- ==== Sys2Proof/Safety.lean ====
section
/-! DEFINITION. The invariant of the engine's states and what the end of a run means. -/

namespace Sys2Proof.Machine

/-- Bits 3:0 of F are zero (10_state.md R21). -/
abbrev State.lowNibbleZero (s : State) : Prop := (s.readU8 .f).extractLsb' 0 4 = 0#4

/-- The invariant every step keeps: memory in canonical form inside the address space (20_memory.md R40), and F[3:0] = 0
(10_state.md R21). -/
abbrev State.inv (s : State) : Prop := Memory.wf s.mem = true ∧ s.lowNibbleZero

/-- The next step is enabled (10_state.md R29). -/
abbrev State.isRunning (s : State) : Prop := s.status = .running

/-- The run has ended (70_reset_and_hazards.md R258). -/
abbrev State.ended (s : State) : Prop := s.status ≠ .running

/-- The run has ended normally: by executing `HALT` (R258). -/
abbrev State.endedNormally (s : State) : Prop := ∃ addr, s.status = .halted addr

/-- The run has ended in a fault (R258). -/
abbrev State.endedInFault (s : State) : Prop := ∃ info, s.status = .faulted info

/-- The states of the engine that exist: a successful load followed by zero or more steps (70_reset_and_hazards.md R250). -/
inductive Reachable : State → Prop
  | load {image : List Byte} {s : State} (h : load image = .loaded s) : Reachable s
  | step {s t : State} (hs : Reachable s) (h : step s = .next t) : Reachable t

end Sys2Proof.Machine
end

