-- ==== Sys2Proof/Certificates/Slice0/Obligations.lean ====
section
/-! DEFINITION. The statements for the provers, and the vocabulary they are written in (namespace `Sys2Proof.Claims`). Each
statement's docstring names the rule of spec/ it formalises. Where a statement mentions a cycle cost it means the machine's
table `Config.cycleCost`, whatever its numbers (log entry 1), except `DefaultCycleCosts`, which states the numbers, and the
statements that take a table of their own. -/

namespace Sys2Proof.Claims

open Sys2Proof.Machine

/-! ## Vocabulary -/

/-- Where the next-PC check (10_state.md R25) passes for an instruction of this length that falls through, and the counter has
room for its cost (R28). -/
abbrev RoomFor (s : State) (length : Nat) (e : CostEntry) : Prop :=
  s.pc.toNat + length < Config.memSize ∧ s.cycles.toNat + Config.cycleCost e < Config.cycleLimit

/-- PC moved on by the length, the cost added (10_state.md R24, R27). -/
abbrev Advanced (s t : State) (length : Nat) (e : CostEntry) : Prop :=
  t.pc.toNat = s.pc.toNat + length ∧ t.cycles.toNat = s.cycles.toNat + Config.cycleCost e

/-- Every byte of memory reads as before. -/
abbrev SameMemory (s t : State) : Prop := ∀ a, t.mem.read a = s.mem.read a

/-- Every slot but PC and those listed reads as before. -/
abbrev SameSlotsBut (s t : State) (written : List Slot) : Prop :=
  ∀ sl, sl ≠ .pc → sl ∉ written → t.readU16 sl = s.readU16 sl

/-- Every lane but F and those listed reads as before, and SP too. -/
abbrev SameLanesBut (s t : State) (written : List Lane) : Prop :=
  (∀ ln, ln ≠ .f → ln ∉ written → t.readU8 ln = s.readU8 ln) ∧ t.sp = s.sp

/-- The low nibble of F is as before. -/
abbrev SameLowNibble (s t : State) : Prop := (t.readU8 .f).extractLsb' 0 4 = (s.readU8 .f).extractLsb' 0 4

/-- Executing `i` raises `OutOfRange(NextPc)` at 0x10000 and changes nothing else (R25, 60_exceptions.md R202, R203). -/
abbrev NextPcFault (i : Instr) (s : State) : Prop :=
  exec i s = .next (s.raise (.outOfRange s.pc (s.mem.read s.pc.toNat) .nextPc 0x10000#17))

/-- The step raises `OutOfRange(OperandRead)` at 0x10000 and changes nothing else (20_memory.md R50, 60_exceptions.md R202,
R203). -/
abbrev OperandReadFault (s : State) : Prop :=
  step s = .next (s.raise (.outOfRange s.pc (s.mem.read s.pc.toNat) .operandRead 0x10000#17))

/-- The opcode bytes of format `OP_D8` (30_encoding.md R66). -/
def d8Opcodes : List Byte := [0x06#8, 0x0E#8, 0x16#8, 0x1E#8, 0x26#8, 0x2E#8, 0x3E#8]

/-- The opcode bytes of format `OP_D16` (30_encoding.md R66). -/
def d16Opcodes : List Byte := [0x01#8, 0x11#8, 0x21#8, 0x31#8, 0xC2#8, 0xC3#8, 0xCA#8, 0xD2#8, 0xDA#8]

/-- The 205 unmapped primary opcodes, as 30_encoding.md R68 lists them. -/
def unmappedPrimary (b : Byte) : Bool :=
  [(0x07, 0x0A), (0x10, 0x10), (0x17, 0x1A), (0x1F, 0x20), (0x22, 0x22), (0x27, 0x2A), (0x2F, 0x30), (0x32, 0x32),
   (0x34, 0x3A), (0x3F, 0x6F), (0x78, 0xC1), (0xC4, 0xC9), (0xCC, 0xD1), (0xD3, 0xD9), (0xDB, 0xFF)].any
    (fun r => decide (r.1 ≤ b.toNat) && decide (b.toNat ≤ r.2))

/-- The 242 unmapped sub-opcodes, as 30_encoding.md R70 lists them. -/
def unmappedSecondary (b : Byte) : Bool :=
  [(0x00, 0x07), (0x0E, 0x0E), (0x10, 0x37), (0x3E, 0x3E), (0x40, 0xFF)].any
    (fun r => decide (r.1 ≤ b.toNat) && decide (b.toNat ≤ r.2))

/-- A condition as the table of 47_jump.md R137 gives it: the flag it reads and the value it wants. -/
def holds (s : State) : Cond → Bool
  | .nz => s.readFlag .z == false
  | .z => s.readFlag .z == true
  | .nc => s.readFlag .c == false
  | .c => s.readFlag .c == true

/-- The next PC before the range check, as the table of 10_state.md R24 gives it. -/
def nextPc (i : Instr) (s : State) : Nat :=
  match i with
  | .jpA16 n => n.toNat
  | .jpNzA16 n => if holds s .nz then n.toNat else s.pc.toNat + 3
  | .jpZA16 n => if holds s .z then n.toNat else s.pc.toNat + 3
  | .jpNcA16 n => if holds s .nc then n.toNat else s.pc.toNat + 3
  | .jpCA16 n => if holds s .c then n.toNat else s.pc.toNat + 3
  | i => s.pc.toNat + i.length

/-- The `CYCLE_COST` entry of an instruction (the cost columns of 30_encoding.md R66 and R70, 70_reset_and_hazards.md R262). -/
def costOf (i : Instr) (s : State) : CostEntry :=
  match i with
  | .nop => .nop
  | .ldBcD16 _ => .ldRrD16
  | .ldIndBcA => .ldIndPpA
  | .incBc => .incRr
  | .incB => .incR
  | .decB => .decR
  | .ldBD8 _ => .ldRD8
  | .decBc => .decRr
  | .incC => .incR
  | .decC => .decR
  | .ldCD8 _ => .ldRD8
  | .rrca => .rrca
  | .ldDeD16 _ => .ldRrD16
  | .ldIndDeA => .ldIndPpA
  | .incDe => .incRr
  | .incD => .incR
  | .decD => .decR
  | .ldDD8 _ => .ldRD8
  | .decDe => .decRr
  | .incE => .incR
  | .decE => .decR
  | .ldED8 _ => .ldRD8
  | .ldHlD16 _ => .ldRrD16
  | .incHl => .incRr
  | .incH => .incR
  | .decH => .decR
  | .ldHD8 _ => .ldRD8
  | .decHl => .decRr
  | .incL => .incR
  | .decL => .decR
  | .ldLD8 _ => .ldRD8
  | .ldSpD16 _ => .ldRrD16
  | .incSp => .incRr
  | .decSp => .decRr
  | .incA => .incR
  | .decA => .decR
  | .ldAD8 _ => .ldRD8
  | .ldIndHlB => .ldIndHlR
  | .ldIndHlC => .ldIndHlR
  | .ldIndHlD => .ldIndHlR
  | .ldIndHlE => .ldIndHlR
  | .ldIndHlH => .ldIndHlR
  | .ldIndHlL => .ldIndHlR
  | .halt => .halt
  | .ldIndHlA => .ldIndHlR
  | .jpNzA16 _ => if holds s .nz then .jpCcTaken else .jpCcNotTaken
  | .jpA16 _ => .jpA16
  | .jpZA16 _ => if holds s .z then .jpCcTaken else .jpCcNotTaken
  | .jpNcA16 _ => if holds s .nc then .jpCcTaken else .jpCcNotTaken
  | .jpCA16 _ => if holds s .c then .jpCcTaken else .jpCcNotTaken
  | .rrcB => .rrcR
  | .rrcC => .rrcR
  | .rrcD => .rrcR
  | .rrcE => .rrcR
  | .rrcH => .rrcR
  | .rrcL => .rrcR
  | .rrcA => .rrcR
  | .srlB => .srlR
  | .srlC => .srlR
  | .srlD => .srlR
  | .srlE => .srlR
  | .srlH => .srlR
  | .srlL => .srlR
  | .srlA => .srlR

/-- The lanes an instruction form writes, a pair as its two lanes (10_state.md R34). -/
def lanesWritten : Instr → List Lane
  | .nop => []
  | .ldBcD16 _ => [.b, .c]
  | .ldIndBcA => []
  | .incBc => [.b, .c]
  | .incB => [.b]
  | .decB => [.b]
  | .ldBD8 _ => [.b]
  | .decBc => [.b, .c]
  | .incC => [.c]
  | .decC => [.c]
  | .ldCD8 _ => [.c]
  | .rrca => [.a]
  | .ldDeD16 _ => [.d, .e]
  | .ldIndDeA => []
  | .incDe => [.d, .e]
  | .incD => [.d]
  | .decD => [.d]
  | .ldDD8 _ => [.d]
  | .decDe => [.d, .e]
  | .incE => [.e]
  | .decE => [.e]
  | .ldED8 _ => [.e]
  | .ldHlD16 _ => [.h, .l]
  | .incHl => [.h, .l]
  | .incH => [.h]
  | .decH => [.h]
  | .ldHD8 _ => [.h]
  | .decHl => [.h, .l]
  | .incL => [.l]
  | .decL => [.l]
  | .ldLD8 _ => [.l]
  | .ldSpD16 _ => []
  | .incSp => []
  | .decSp => []
  | .incA => [.a]
  | .decA => [.a]
  | .ldAD8 _ => [.a]
  | .ldIndHlB => []
  | .ldIndHlC => []
  | .ldIndHlD => []
  | .ldIndHlE => []
  | .ldIndHlH => []
  | .ldIndHlL => []
  | .halt => []
  | .ldIndHlA => []
  | .jpNzA16 _ => []
  | .jpA16 _ => []
  | .jpZA16 _ => []
  | .jpNcA16 _ => []
  | .jpCA16 _ => []
  | .rrcB => [.b]
  | .rrcC => [.c]
  | .rrcD => [.d]
  | .rrcE => [.e]
  | .rrcH => [.h]
  | .rrcL => [.l]
  | .rrcA => [.a]
  | .srlB => [.b]
  | .srlC => [.c]
  | .srlD => [.d]
  | .srlE => [.e]
  | .srlH => [.h]
  | .srlL => [.l]
  | .srlA => [.a]

/-- The instructions that write SP (10_state.md R34). -/
def writesSp : Instr → Bool
  | .ldSpD16 _ | .incSp | .decSp => true
  | _ => false

/-- The instructions that write the Carry flag (10_state.md R35). -/
def writesCarry : Instr → Bool
  | .rrca => true
  | .rrcB | .rrcC | .rrcD | .rrcE | .rrcH | .rrcL | .rrcA => true
  | .srlB | .srlC | .srlD | .srlE | .srlH | .srlL | .srlA => true
  | _ => false

/-- The instructions that write the Zero, Subtraction and Half-Carry flags (10_state.md R35). -/
def writesZNH : Instr → Bool
  | .incB | .incC | .incD | .incE | .incH | .incL | .incA => true
  | .decB | .decC | .decD | .decE | .decH | .decL | .decA => true
  | i => writesCarry i

/-- The address an instruction stores to, by the function its meaning uses (20_memory.md R57). -/
def storesTo (i : Instr) (s : State) : Option Word :=
  match i with
  | .ldIndBcA => some (s.storeAddress .bc)
  | .ldIndDeA => some (s.storeAddress .de)
  | .ldIndHlB | .ldIndHlC | .ldIndHlD | .ldIndHlE | .ldIndHlH | .ldIndHlL | .ldIndHlA => some (s.storeAddress .hl)
  | _ => none

end Sys2Proof.Claims

open Sys2Proof Sys2Proof.Machine Sys2Proof.Claims

/-- The reset values of 10_state.md R33 with no image (log entry 5). -/
def Obligations.ResetState : Prop :=
  State.reset.af = 0x0000#16 ∧ State.reset.bc = 0x0000#16 ∧ State.reset.de = 0x0000#16 ∧ State.reset.hl = 0x0000#16 ∧
  State.reset.sp = 0x0000#16 ∧ State.reset.pc = 0x0100#16 ∧ State.reset.cycles = 0#64 ∧ State.reset.status = .running ∧
  (∀ a, State.reset.mem.read a = 0x00#8) ∧ load [] = .loaded State.reset

/-- 10_state.md R33, 70_reset_and_hazards.md R251. -/
def Obligations.LoadLeavesResetState : Prop :=
  ∀ image : List Byte, image.length ≤ 0x10000 →
    ∃ s, load image = .loaded s ∧
      s.af = 0x0000#16 ∧ s.bc = 0x0000#16 ∧ s.de = 0x0000#16 ∧ s.hl = 0x0000#16 ∧ s.sp = 0x0000#16 ∧
      s.pc = 0x0100#16 ∧ s.cycles = 0#64 ∧ s.status = .running ∧ (∀ g, s.readFlag g = false) ∧
      (∀ a (h : a < image.length), s.mem.read a = image[a]) ∧
      (∀ a, image.length ≤ a → a ≤ 0xFFFF → s.mem.read a = 0x00#8)

/-- 60_exceptions.md R208. -/
def Obligations.OversizedImageRejected : Prop :=
  (∀ image : List Byte, 0x10000 < image.length →
    load image = .imageTooLarge image.length ∧ ∀ s : State, s.reload image = s) ∧
  (∀ image : List Byte, image.length ≤ 0x10000 →
    ∃ t, load image = .loaded t ∧ ∀ s : State, s.reload image = t)

/-- 10_state.md R13, R14. -/
def Obligations.SlotPorts : Prop :=
  ∀ (s : State) (sl : Slot) (v : Word),
    (s.writeU16 sl v).readU16 sl = v ∧ (∀ sl', sl' ≠ sl → (s.writeU16 sl v).readU16 sl' = s.readU16 sl') ∧
    (s.writeU16 sl v).mem = s.mem ∧ (s.writeU16 sl v).cycles = s.cycles ∧ (s.writeU16 sl v).status = s.status ∧
    s.readU16 .af = s.af ∧ s.readU16 .bc = s.bc ∧ s.readU16 .de = s.de ∧ s.readU16 .hl = s.hl ∧
    s.readU16 .sp = s.sp ∧ s.readU16 .pc = s.pc

/-- 10_state.md R15, R16, R17, over the pairs of R12. -/
def Obligations.LanePorts : Prop :=
  (∀ s : State,
    s.af = s.readU8 .a ++ s.readU8 .f ∧ s.bc = s.readU8 .b ++ s.readU8 .c ∧
    s.de = s.readU8 .d ++ s.readU8 .e ∧ s.hl = s.readU8 .h ++ s.readU8 .l) ∧
  (∀ (s : State) (ln : Lane),
    s.readU8 ln = if laneIsHigh ln then (s.readU16 (lanePair ln)).extractLsb' 8 8
      else (s.readU16 (lanePair ln)).extractLsb' 0 8) ∧
  (∀ (s : State) (ln : Lane) (v : Byte),
    (s.writeU8 ln v).readU16 (lanePair ln) =
      (if laneIsHigh ln then (s.readU16 (lanePair ln) &&& 0x00FF#16) ||| (v.zeroExtend 16 <<< 8)
        else (s.readU16 (lanePair ln) &&& 0xFF00#16) ||| v.zeroExtend 16) ∧
    (s.writeU8 ln v).readU8 ln = v ∧
    (∀ ln', ln' ≠ ln → (s.writeU8 ln v).readU8 ln' = s.readU8 ln') ∧
    (∀ sl, sl ≠ lanePair ln → (s.writeU8 ln v).readU16 sl = s.readU16 sl) ∧
    (s.writeU8 ln v).mem = s.mem ∧ (s.writeU8 ln v).cycles = s.cycles ∧ (s.writeU8 ln v).status = s.status)

/-- 10_state.md R19, R20. -/
def Obligations.FlagPorts : Prop :=
  (∀ s : State,
    s.readFlag .z = (s.readU8 .f).getLsbD 7 ∧ s.readFlag .n = (s.readU8 .f).getLsbD 6 ∧
    s.readFlag .h = (s.readU8 .f).getLsbD 5 ∧ s.readFlag .c = (s.readU8 .f).getLsbD 4) ∧
  (∀ (s : State) (g : Flag) (b : Bool),
    (s.writeFlag g b).readFlag g = b ∧
    (s.writeFlag g b).af =
      (if b then s.af ||| (0x0010#16 <<< (flagBit g - 4)) else s.af &&& ~~~(0x0010#16 <<< (flagBit g - 4))) ∧
    (∀ g', g' ≠ g → (s.writeFlag g b).readFlag g' = s.readFlag g') ∧
    SameLowNibble s (s.writeFlag g b) ∧
    (∀ ln, ln ≠ .f → (s.writeFlag g b).readU8 ln = s.readU8 ln) ∧
    (∀ sl, sl ≠ .af → (s.writeFlag g b).readU16 sl = s.readU16 sl) ∧
    (s.writeFlag g b).mem = s.mem ∧ (s.writeFlag g b).cycles = s.cycles ∧ (s.writeFlag g b).status = s.status)

/-- 20_memory.md R47, over the accesses of R41 and R42. -/
def Obligations.MemoryReadAndWrite : Prop :=
  (∀ (s : State) (a : Addr),
    s.memRead a = if a.toNat < 0x10000 then some (s.mem.read a.toNat) else none) ∧
  (∀ (s : State) (a : Word) (v : Byte), a.toNat < 0x10000 ∧
    (s.memWrite a v).memRead (a.zeroExtend 17) = some v ∧
    (∀ b, b ≠ a.toNat → (s.memWrite a v).mem.read b = s.mem.read b) ∧
    (∀ sl, (s.memWrite a v).readU16 sl = s.readU16 sl) ∧
    (s.memWrite a v).cycles = s.cycles ∧ (s.memWrite a v).status = s.status)

/-- The memory as data: 10_state.md R26 through the model's canonical form. -/
def Obligations.CanonicalMemoryIsUnique : Prop :=
  (∀ m m' : Memory, Memory.wf m = true → Memory.wf m' = true →
    (∀ a, a < 0x10000 → Memory.read m a = Memory.read m' a) → m = m') ∧
  (∀ (m : Memory) (a : Nat) (v : Byte), Memory.wf m = true → a < 0x10000 → Memory.wf (Memory.write m a v) = true)

/-- 30_encoding.md R61, R66, R70: the decoder and the encoder agree on all 64 encodings. -/
def Obligations.DecodeOfEncode : Prop :=
  ∀ (i : Instr) (rest : List Byte), decode (encode i ++ rest) = .ok i rest

/-- 30_encoding.md R66, R70: "each row matches exactly one byte pattern" (section 8). -/
def Obligations.EncodeOfDecode : Prop :=
  ∀ (bs rest : List Byte) (i : Instr), decode bs = .ok i rest → bs = encode i ++ rest

/-- Examples of 30_encoding.md R63, R66, R70. -/
def Obligations.WorkedEncodingsDecode : Prop :=
  [[0x00#8], [0x01#8, 0x34#8, 0x12#8], [0x77#8], [0x76#8], [0xC3#8, 0x00#8, 0x02#8], [0xC2#8, 0x04#8, 0x01#8],
    [0xCB#8, 0x08#8], [0xCB#8, 0x3F#8], [0x3E#8, 0xA5#8], [0x3B#8], [0xFF#8], [0x10#8], [0xCB#8, 0x0E#8]].map decode =
  [.ok .nop [], .ok (.ldBcD16 0x1234#16) [], .ok .ldIndHlA [], .ok .halt [], .ok (.jpA16 0x0200#16) [],
    .ok (.jpNzA16 0x0104#16) [], .ok .rrcB [], .ok .srlA [], .ok (.ldAD8 0xA5#8) [], .ok .decSp [],
    .unknownOpcode 0xFF#8 none, .unknownOpcode 0x10#8 none, .unknownOpcode 0xCB#8 (some 0x0E#8)]

/-- 30_encoding.md R68. -/
def Obligations.EveryByteMappedOrUnmapped : Prop :=
  (∀ b : Byte, b ≠ 0xCB#8 → ((primaryTable.lookup b).isNone = unmappedPrimary b)) ∧
  unmappedPrimary 0xCB#8 = false ∧
  ((List.range 256).filter (fun n => unmappedPrimary (BitVec.ofNat 8 n))).length = 205 ∧
  (∀ s : State, s.status = .running → unmappedPrimary (s.mem.read s.pc.toNat) = true →
    step s = .next (s.raise (.unknownOpcode s.pc (s.mem.read s.pc.toNat) none)))

/-- 30_encoding.md R67, R69; 60_exceptions.md R201. -/
def Obligations.UnknownOpcodeDiagnostic : Prop :=
  ((List.range 256).filter (fun n => unmappedPrimary (BitVec.ofNat 8 n))).length = 205 ∧
  ((List.range 256).filter (fun n => unmappedSecondary (BitVec.ofNat 8 n))).length = 242 ∧
  (∀ b : Byte, (secondaryTable.lookup b).isNone = unmappedSecondary b) ∧
  (∀ s : State, s.status = .running → unmappedPrimary (s.mem.read s.pc.toNat) = true →
    step s = .next (s.raise (.unknownOpcode s.pc (s.mem.read s.pc.toNat) none))) ∧
  (∀ s : State, s.status = .running → s.mem.read s.pc.toNat = 0xCB#8 → s.pc.toNat + 1 < 0x10000 →
    unmappedSecondary (s.mem.read (s.pc.toNat + 1)) = true →
    step s = .next (s.raise (.unknownOpcode s.pc 0xCB#8 (some (s.mem.read (s.pc.toNat + 1)))))) ∧
  (∀ s : State, s.status = .running → s.mem.read s.pc.toNat = 0xCB#8 → s.pc = 0xFFFF#16 → OperandReadFault s) ∧
  (∀ s : State, s.status = .running → s.mem.read s.pc.toNat = 0xCB#8 → s.pc.toNat + 1 < 0x10000 →
    unmappedSecondary (s.mem.read (s.pc.toNat + 1)) = false →
    ∃ i, encode i = [0xCB#8, s.mem.read (s.pc.toNat + 1)] ∧ i.length = 2 ∧ step s = exec i s) ∧
  (∀ (s t : State) (addr : Word) (byte : Byte) (subop : Option Byte), step s = .next t →
    t.status = .faulted (.unknownOpcode addr byte subop) →
    addr = s.pc ∧ byte = s.mem.read s.pc.toNat ∧
    ((subop = none ∧ unmappedPrimary byte = true) ∨
      (∃ b, subop = some b ∧ byte = 0xCB#8 ∧ s.pc.toNat + 1 < 0x10000 ∧ b = s.mem.read (s.pc.toNat + 1) ∧
        unmappedSecondary b = true))) ∧
  (∀ (i : Instr) (s t : State) (addr : Word) (byte : Byte) (subop : Option Byte), s.status = .running →
    exec i s = .next t → t.status ≠ .faulted (.unknownOpcode addr byte subop))

/-- 30_encoding.md R64, R65, R78: fetch and decode, then the action and its commit. -/
def Obligations.StepRunsDecodedInstruction : Prop :=
  ∀ (s : State) (i : Instr) (rest : List Byte),
    s.status = .running → decode s.fetchBytes = .ok i rest → step s = exec i s

/-- 30_encoding.md R78, 20_memory.md R54. -/
def Obligations.EncodedBytesAtPcExecute : Prop :=
  ∀ (s : State) (i : Instr), s.status = .running →
    (∀ k (h : k < (encode i).length), s.pc.toNat + k < 0x10000 ∧ s.mem.read (s.pc.toNat + k) = (encode i)[k]) →
    step s = exec i s

/-- 30_encoding.md R79. -/
def Obligations.DecodingDependsOnBytesOnly : Prop :=
  ∀ s s' : State, s'.pc = s.pc →
    (∀ k, k ≤ 2 → s'.mem.read (s.pc.toNat + k) = s.mem.read (s.pc.toNat + k)) → s'.fetch = s.fetch

/-- 10_state.md R29: a step is enabled only when the status is Running; the form of the stop is log entry 2. -/
def Obligations.NoStepUnlessRunning : Prop :=
  (∀ (s : State) (addr : Word), s.status = .halted addr → step s = .fault (.engineHalted addr)) ∧
  (∀ (s : State) (info : EngineFault), s.status = .faulted info → step s = .fault (.engineFaulted info)) ∧
  (∀ (s : State) (fuel : Nat), s.status ≠ .running → run fuel s = .next s)

/-- 70_reset_and_hazards.md R257 with the fuel of log entry 7. -/
def Obligations.RunStepsWhileRunning : Prop :=
  (∀ s : State, s.status = .running → run 1 s = step s) ∧
  (∀ (m n : Nat) (s t : State), run m s = .next t → run (m + n) s = run n t) ∧
  (∀ (m n : Nat) (s t : State), run m s = .next t → t.status ≠ .running → run (m + n) s = .next t)

/-- 60_exceptions.md R203, R204. -/
def Obligations.FaultsArePrecise : Prop :=
  ∀ (s t : State) (info : EngineFault), step s = .next t → t.status = .faulted info →
    t = { s with status := .faulted info }

/-- 60_exceptions.md R216. -/
def Obligations.DiagnosticReplaysTheFault : Prop :=
  ∀ (s t : State) (info : EngineFault), step s = .next t → t.status = .faulted info →
    step { t with status := .running } = .next t

/-- 60_exceptions.md R202. -/
def Obligations.OutOfRangeDiagnostic : Prop :=
  (∀ (s t : State) (addr : Word) (byte : Byte) (kind : AccessKind) (bad : Addr), step s = .next t →
    t.status = .faulted (.outOfRange addr byte kind bad) →
    addr = s.pc ∧ byte = s.mem.read s.pc.toNat ∧ bad = 0x10000#17) ∧
  (∀ s : State, s.status = .running →
    (OperandReadFault s ↔
      ((s.pc = 0xFFFF#16 ∧ (s.mem.read s.pc.toNat = 0xCB#8 ∨ s.mem.read s.pc.toNat ∈ d8Opcodes ∨
          s.mem.read s.pc.toNat ∈ d16Opcodes)) ∨
        (s.pc = 0xFFFE#16 ∧ s.mem.read s.pc.toNat ∈ d16Opcodes)))) ∧
  (∀ s : State, s.status = .running →
    (step s = .next (s.raise (.outOfRange s.pc (s.mem.read s.pc.toNat) .nextPc 0x10000#17)) ↔
      ∃ i rest, decode s.fetchBytes = .ok i rest ∧ s.pc.toNat + i.length = 0x10000 ∧
        (∀ n, i ≠ .jpA16 n) ∧ (∀ cc n, i = .jpCcA16 cc n → holds s cc = false)))

/-- 20_memory.md R50. -/
def Obligations.OperandReadsPastTopFault : Prop :=
  (∀ s : State, (s.memRead s.pc17).isSome = true ∧
    ((s.memRead (s.fallThrough 1)).isNone = true ↔ s.pc = 0xFFFF#16) ∧
    ((s.memRead (s.fallThrough 2)).isNone = true ↔ s.pc = 0xFFFE#16 ∨ s.pc = 0xFFFF#16) ∧
    (∀ a : Word, (s.memRead (a.zeroExtend 17)).isSome = true)) ∧
  (∀ s : State, s.status = .running → s.pc = 0xFFFF#16 →
    s.mem.read s.pc.toNat = 0xCB#8 ∨ s.mem.read s.pc.toNat ∈ d8Opcodes ∨ s.mem.read s.pc.toNat ∈ d16Opcodes →
    OperandReadFault s) ∧
  (∀ s : State, s.status = .running → s.pc = 0xFFFE#16 → s.mem.read s.pc.toNat ∈ d16Opcodes → OperandReadFault s)

/-- 10_state.md R25 for `exec` in every state. That `bad` is 0x10001 or 0x10002 where no step reaches the instruction is the
model's choice, log entry 9; R202 has 0x10000 in every step (`StepNextPcPastTopFaults`). -/
def Obligations.NextPcPastTopFaults : Prop :=
  (∀ (i : Instr) (s : State), 0x10000 ≤ nextPc i s →
    exec i s =
      .next (s.raise (.outOfRange s.pc (s.mem.read s.pc.toNat) .nextPc (BitVec.ofNat 17 (nextPc i s))))) ∧
  (∀ (i : Instr) (s : State), nextPc i s < 2 ^ 17) ∧
  (∀ (n : Word) (s : State), nextPc (.jpA16 n) s < 0x10000)

/-- 70_reset_and_hazards.md R258: "it is reached exactly by executing `HALT`". -/
def Obligations.HaltedExactlyByHalt : Prop :=
  (∀ (s t : State) (addr : Word), step s = .next t → t.status = .halted addr →
    addr = s.pc ∧ s.mem.read s.pc.toNat = 0x76#8 ∧ SameSlotsBut s t [] ∧ SameMemory s t) ∧
  (∀ (i : Instr) (s t : State) (addr : Word), s.status = .running → exec i s = .next t → t.status = .halted addr →
    i = .halt)

/-- 10_state.md R24; 30_encoding.md R73; with R27's "the counter never decreases". -/
def Obligations.EveryInstructionCompletes : Prop :=
  (∀ (i : Instr) (s : State), nextPc i s < 0x10000 →
    s.cycles.toNat + Config.cycleCost (costOf i s) < 2 ^ 64 →
    ∃ t, exec i s = .next t ∧ t.pc.toNat = nextPc i s ∧
      t.cycles.toNat = s.cycles.toNat + Config.cycleCost (costOf i s) ∧
      t.status = if i = .halt then .halted s.pc else s.status) ∧
  (∀ s t : State, step s = .next t → s.cycles.toNat ≤ t.cycles.toNat) ∧
  (∀ (s t : State) (info : EngineFault), step s = .next t → t.status = .faulted info → t.cycles = s.cycles)

/-- 10_state.md R28. -/
def Obligations.CounterOverflowRefused : Prop :=
  (∀ (i : Instr) (s : State), nextPc i s < 0x10000 →
    2 ^ 64 ≤ s.cycles.toNat + Config.cycleCost (costOf i s) → exec i s = .refused .cycleCounterOverflow) ∧
  (∀ (i : Instr) (s : State) (r : Refusal), exec i s = .refused r →
    r = .cycleCounterOverflow ∧ nextPc i s < 0x10000 ∧ 2 ^ 64 ≤ s.cycles.toNat + Config.cycleCost (costOf i s)) ∧
  (∀ (i : Instr) (s : State) (r : Fault), exec i s ≠ .fault r)

/-- 10_state.md R34, over all 64 instructions. -/
def Obligations.RegisterFrame : Prop :=
  ∀ (i : Instr) (s t : State), exec i s = .next t →
    (∀ ln, ln ≠ .f → ln ∉ lanesWritten i → t.readU8 ln = s.readU8 ln) ∧
    (writesSp i = false → t.sp = s.sp) ∧ SameLowNibble s t

/-- 10_state.md R35, over all 64 instructions; 44_incdec_r8.md R123. -/
def Obligations.FlagFrame : Prop :=
  ∀ (i : Instr) (s t : State), exec i s = .next t →
    (writesCarry i = false → t.readFlag .c = s.readFlag .c) ∧
    (writesZNH i = false → t.readFlag .z = s.readFlag .z ∧ t.readFlag .n = s.readFlag .n ∧
      t.readFlag .h = s.readFlag .h)

/-- 20_memory.md R57, over all 64 instructions. -/
def Obligations.MemoryFrame : Prop :=
  ∀ (i : Instr) (s t : State), exec i s = .next t →
    ∀ a, (∀ p, storesTo i s = some p → a ≠ p.toNat) → t.mem.read a = s.mem.read a

/-- 70_reset_and_hazards.md R263. -/
def Obligations.CyclesInfluenceNothing : Prop :=
  (∀ (s t t' : State) (c : BitVec 64), step s = .next t → step { s with cycles := c } = .next t' →
    t' = { t with cycles := t'.cycles }) ∧
  (∀ (costs costs' : CycleCost) (s t t' : State) (c : BitVec 64), stepWith costs s = .next t →
    stepWith costs' { s with cycles := c } = .next t' → t' = { t with cycles := t'.cycles }) ∧
  (∀ (costs costs' : CycleCost) (s t t' : State) (act : Action), commitWith costs s act = .next t →
    commitWith costs' s act = .next t' → t' = { t with cycles := t'.cycles })

/-- 70_reset_and_hazards.md R262; log entry 1. -/
def Obligations.DefaultCycleCosts : Prop :=
  CostEntry.all.map Config.cycleCost = [4, 12, 8, 8, 8, 8, 4, 4, 8, 4, 8, 8, 16, 16, 12, 4] ∧
  (∀ e, e ∈ CostEntry.all ∧ Config.cycleCost .nop ≤ Config.cycleCost e) ∧
  CycleCost.wellFormed Config.cycleCost = true

/-- 40_nop.md R100. -/
def Obligations.NopAdvancesOnly : Prop :=
  encode .nop = [0x00#8] ∧
  (∀ s, RoomFor s 1 .nop →
    exec .nop s =
      .next { s with pc := s.pc + 1#16, cycles := s.cycles + BitVec.ofNat 64 (Config.cycleCost .nop) }) ∧
  (∀ e, Config.cycleCost .nop ≤ Config.cycleCost e) ∧
  (∀ s, s.pc = 0xFFFF#16 → NextPcFault .nop s)

/-- 41_ld_r16_d16.md R105. -/
def Obligations.LoadImm16WritesSlot : Prop :=
  (∀ n, [Reg16.bc, .de, .hl, .sp].map (fun rr => encode (.ldRrD16 rr n)) =
    [[0x01#8, loByte n, hiByte n], [0x11#8, loByte n, hiByte n], [0x21#8, loByte n, hiByte n],
      [0x31#8, loByte n, hiByte n]]) ∧
  (∀ (rr : Reg16) (n : Word) (s : State), RoomFor s 3 .ldRrD16 →
    ∃ t, exec (.ldRrD16 rr n) s = .next t ∧ t.readU16 rr.slot = n ∧ SameSlotsBut s t [rr.slot] ∧ SameMemory s t ∧
      t.status = s.status ∧ Advanced s t 3 .ldRrD16) ∧
  (∀ (rr : Reg16) (n : Word) (s : State), s.pc = 0xFFFD#16 → NextPcFault (.ldRrD16 rr n) s) ∧
  (∀ s : State, s.status = .running → s.pc = 0xFFFE#16 ∨ s.pc = 0xFFFF#16 →
    s.mem.read s.pc.toNat ∈ [0x01#8, 0x11#8, 0x21#8, 0x31#8] → OperandReadFault s)

/-- 42_store_r8_indirect.md R110. -/
def Obligations.StoreAccumulatorThroughPair : Prop :=
  [StorePair.bc, .de].map (fun pp => encode (.ldIndPpA pp)) = [[0x02#8], [0x12#8]] ∧
  (∀ (pp : StorePair) (s : State), RoomFor s 1 .ldIndPpA →
    ∃ t, exec (.ldIndPpA pp) s = .next t ∧ s.storeAddress pp.slot = s.readU16 pp.slot ∧
      t.mem.read (s.storeAddress pp.slot).toNat = s.readU8 .a ∧
      (∀ a, a ≠ (s.storeAddress pp.slot).toNat → t.mem.read a = s.mem.read a) ∧ SameSlotsBut s t [] ∧
      t.status = s.status ∧ Advanced s t 1 .ldIndPpA) ∧
  (∀ (pp : StorePair) (s : State), s.pc = 0xFFFF#16 → NextPcFault (.ldIndPpA pp) s)

/-- 42_store_r8_indirect.md R111. -/
def Obligations.StoreLaneThroughHl : Prop :=
  [Reg.b, .c, .d, .e, .h, .l, .a].map (fun r => encode (.ldIndHlR r)) =
    [[0x70#8], [0x71#8], [0x72#8], [0x73#8], [0x74#8], [0x75#8], [0x77#8]] ∧
  (∀ (r : Reg) (s : State), RoomFor s 1 .ldIndHlR →
    ∃ t, exec (.ldIndHlR r) s = .next t ∧ s.storeAddress .hl = s.hl ∧
      t.mem.read (s.storeAddress .hl).toNat = s.readU8 r.lane ∧
      (∀ a, a ≠ (s.storeAddress .hl).toNat → t.mem.read a = s.mem.read a) ∧ SameSlotsBut s t [] ∧
      t.status = s.status ∧ Advanced s t 1 .ldIndHlR) ∧
  (∀ (r : Reg) (s : State), s.pc = 0xFFFF#16 → NextPcFault (.ldIndHlR r) s)

/-- 43_incdec_r16.md R115, 00_scope.md R5. -/
def Obligations.IncSlotWraps : Prop :=
  [Reg16.bc, .de, .hl, .sp].map (fun rr => encode (.incRr rr)) = [[0x03#8], [0x13#8], [0x23#8], [0x33#8]] ∧
  (∀ (rr : Reg16) (s : State), RoomFor s 1 .incRr →
    ∃ t, exec (.incRr rr) s = .next t ∧
      (t.readU16 rr.slot).toNat = ((s.readU16 rr.slot).toNat + 1) % 2 ^ 16 ∧ SameSlotsBut s t [rr.slot] ∧
      SameMemory s t ∧ t.status = s.status ∧ Advanced s t 1 .incRr) ∧
  (∀ (rr : Reg16) (s : State), s.pc = 0xFFFF#16 → NextPcFault (.incRr rr) s)

/-- 43_incdec_r16.md R116, 00_scope.md R5. -/
def Obligations.DecSlotWraps : Prop :=
  [Reg16.bc, .de, .hl, .sp].map (fun rr => encode (.decRr rr)) = [[0x0B#8], [0x1B#8], [0x2B#8], [0x3B#8]] ∧
  (∀ (rr : Reg16) (s : State), RoomFor s 1 .decRr →
    ∃ t, exec (.decRr rr) s = .next t ∧
      (t.readU16 rr.slot).toNat = ((s.readU16 rr.slot).toNat + 65535) % 2 ^ 16 ∧ SameSlotsBut s t [rr.slot] ∧
      SameMemory s t ∧ t.status = s.status ∧ Advanced s t 1 .decRr) ∧
  (∀ (rr : Reg16) (s : State), s.pc = 0xFFFF#16 → NextPcFault (.decRr rr) s)

/-- 44_incdec_r8.md R120, R123. -/
def Obligations.IncLaneSetsFlags : Prop :=
  [Reg.b, .c, .d, .e, .h, .l, .a].map (fun r => encode (.incR r)) =
    [[0x04#8], [0x0C#8], [0x14#8], [0x1C#8], [0x24#8], [0x2C#8], [0x3C#8]] ∧
  (∀ (r : Reg) (s : State), RoomFor s 1 .incR →
    ∃ t, exec (.incR r) s = .next t ∧
      (t.readU8 r.lane).toNat = ((s.readU8 r.lane).toNat + 1) % 2 ^ 8 ∧
      (t.readFlag .z = true ↔ t.readU8 r.lane = 0x00#8) ∧
      (t.readFlag .z = true ↔ (s.readU8 r.lane).toNat = 255) ∧
      t.readFlag .n = false ∧
      (t.readFlag .h = true ↔ (s.readU8 r.lane).toNat % 16 = 15) ∧
      t.readFlag .c = s.readFlag .c ∧ SameLowNibble s t ∧ SameLanesBut s t [r.lane] ∧
      SameMemory s t ∧ t.status = s.status ∧ Advanced s t 1 .incR) ∧
  (∀ (r : Reg) (s : State), s.pc = 0xFFFF#16 → NextPcFault (.incR r) s)

/-- 44_incdec_r8.md R121, R123. -/
def Obligations.DecLaneSetsFlags : Prop :=
  [Reg.b, .c, .d, .e, .h, .l, .a].map (fun r => encode (.decR r)) =
    [[0x05#8], [0x0D#8], [0x15#8], [0x1D#8], [0x25#8], [0x2D#8], [0x3D#8]] ∧
  (∀ (r : Reg) (s : State), RoomFor s 1 .decR →
    ∃ t, exec (.decR r) s = .next t ∧
      (t.readU8 r.lane).toNat = ((s.readU8 r.lane).toNat + 255) % 2 ^ 8 ∧
      (t.readFlag .z = true ↔ t.readU8 r.lane = 0x00#8) ∧
      (t.readFlag .z = true ↔ (s.readU8 r.lane).toNat = 1) ∧
      t.readFlag .n = true ∧
      (t.readFlag .h = true ↔ (s.readU8 r.lane).toNat % 16 = 0) ∧
      t.readFlag .c = s.readFlag .c ∧ SameLowNibble s t ∧ SameLanesBut s t [r.lane] ∧
      SameMemory s t ∧ t.status = s.status ∧ Advanced s t 1 .decR) ∧
  (∀ (r : Reg) (s : State), s.pc = 0xFFFF#16 → NextPcFault (.decR r) s)

/-- 44_incdec_r8.md R122. -/
def Obligations.AluOutputs : Prop :=
  ∀ v : Byte,
    ((aluInc8 v).res.toNat = (v.toNat + 1) % 256 ∧ (aluInc8 v).z = decide ((aluInc8 v).res = 0x00#8) ∧
      (aluInc8 v).z = decide (v = 0xFF#8) ∧ (aluInc8 v).n = false ∧
      (aluInc8 v).h = decide (v.toNat % 16 + 1 > 15)) ∧
    ((aluDec8 v).res.toNat = (v.toNat + 255) % 256 ∧ (aluDec8 v).z = decide ((aluDec8 v).res = 0x00#8) ∧
      (aluDec8 v).z = decide (v = 0x01#8) ∧ (aluDec8 v).n = true ∧
      (aluDec8 v).h = decide (v.toNat % 16 < 1))

/-- 45_ld_r8_d8.md R125. -/
def Obligations.LoadImm8WritesLane : Prop :=
  (∀ n, [Reg.b, .c, .d, .e, .h, .l, .a].map (fun r => encode (.ldRD8 r n)) =
    [[0x06#8, n], [0x0E#8, n], [0x16#8, n], [0x1E#8, n], [0x26#8, n], [0x2E#8, n], [0x3E#8, n]]) ∧
  (∀ (r : Reg) (n : Byte) (s : State), RoomFor s 2 .ldRD8 →
    ∃ t, exec (.ldRD8 r n) s = .next t ∧ t.readU8 r.lane = n ∧ t.readU8 .f = s.readU8 .f ∧
      SameLanesBut s t [r.lane] ∧ SameMemory s t ∧ t.status = s.status ∧ Advanced s t 2 .ldRD8) ∧
  (∀ (r : Reg) (n : Byte) (s : State), s.pc = 0xFFFE#16 → NextPcFault (.ldRD8 r n) s) ∧
  (∀ s : State, s.status = .running → s.pc = 0xFFFF#16 → s.mem.read s.pc.toNat ∈ d8Opcodes → OperandReadFault s)

/-- 46_rotate_shift_right.md R130. -/
def Obligations.RotateAccumulatorRight : Prop :=
  encode .rrca = [0x0F#8] ∧
  (∀ s : State, RoomFor s 1 .rrca →
    ∃ t, exec .rrca s = .next t ∧
      (t.readU8 .a).toNat = (s.readU8 .a).toNat / 2 + 128 * ((s.readU8 .a).toNat % 2) ∧
      t.readFlag .c = decide ((s.readU8 .a).toNat % 2 = 1) ∧
      t.readFlag .z = false ∧ t.readFlag .n = false ∧ t.readFlag .h = false ∧
      SameLowNibble s t ∧ SameLanesBut s t [.a] ∧ SameMemory s t ∧ t.status = s.status ∧ Advanced s t 1 .rrca) ∧
  (∀ s : State, s.pc = 0xFFFF#16 → NextPcFault .rrca s)

/-- 46_rotate_shift_right.md R131. -/
def Obligations.RotateLaneRight : Prop :=
  [Reg.b, .c, .d, .e, .h, .l, .a].map (fun r => encode (.rrcR r)) =
    [[0xCB#8, 0x08#8], [0xCB#8, 0x09#8], [0xCB#8, 0x0A#8], [0xCB#8, 0x0B#8], [0xCB#8, 0x0C#8], [0xCB#8, 0x0D#8], [0xCB#8, 0x0F#8]] ∧
  (∀ (r : Reg) (s : State), RoomFor s 2 .rrcR →
    ∃ t, exec (.rrcR r) s = .next t ∧
      (t.readU8 r.lane).toNat = (s.readU8 r.lane).toNat / 2 + 128 * ((s.readU8 r.lane).toNat % 2) ∧
      t.readFlag .c = decide ((s.readU8 r.lane).toNat % 2 = 1) ∧
      (t.readFlag .z = true ↔ t.readU8 r.lane = 0x00#8) ∧ t.readFlag .n = false ∧ t.readFlag .h = false ∧
      SameLowNibble s t ∧ SameLanesBut s t [r.lane] ∧ SameMemory s t ∧ t.status = s.status ∧
      Advanced s t 2 .rrcR) ∧
  (∀ (r : Reg) (s : State), s.pc = 0xFFFE#16 → NextPcFault (.rrcR r) s) ∧
  (∀ s : State, s.status = .running → s.pc = 0xFFFF#16 → s.mem.read s.pc.toNat = 0xCB#8 → OperandReadFault s)

/-- 46_rotate_shift_right.md R132. -/
def Obligations.ShiftLaneRight : Prop :=
  [Reg.b, .c, .d, .e, .h, .l, .a].map (fun r => encode (.srlR r)) =
    [[0xCB#8, 0x38#8], [0xCB#8, 0x39#8], [0xCB#8, 0x3A#8], [0xCB#8, 0x3B#8], [0xCB#8, 0x3C#8], [0xCB#8, 0x3D#8], [0xCB#8, 0x3F#8]] ∧
  (∀ (r : Reg) (s : State), RoomFor s 2 .srlR →
    ∃ t, exec (.srlR r) s = .next t ∧
      (t.readU8 r.lane).toNat = (s.readU8 r.lane).toNat / 2 ∧
      t.readFlag .c = decide ((s.readU8 r.lane).toNat % 2 = 1) ∧
      (t.readFlag .z = true ↔ t.readU8 r.lane = 0x00#8) ∧ t.readFlag .n = false ∧ t.readFlag .h = false ∧
      SameLowNibble s t ∧ SameLanesBut s t [r.lane] ∧ SameMemory s t ∧ t.status = s.status ∧
      Advanced s t 2 .srlR) ∧
  (∀ (r : Reg) (s : State), s.pc = 0xFFFE#16 → NextPcFault (.srlR r) s) ∧
  (∀ s : State, s.status = .running → s.pc = 0xFFFF#16 → s.mem.read s.pc.toNat = 0xCB#8 → OperandReadFault s)

/-- 47_jump.md R135. -/
def Obligations.JumpSetsPc : Prop :=
  (∀ n, encode (.jpA16 n) = [0xC3#8, loByte n, hiByte n]) ∧
  (∀ (n : Word) (s : State), s.cycles.toNat + Config.cycleCost .jpA16 < Config.cycleLimit →
    exec (.jpA16 n) s =
      .next { s with pc := n, cycles := s.cycles + BitVec.ofNat 64 (Config.cycleCost .jpA16) }) ∧
  (∀ s : State, s.status = .running → s.pc = 0xFFFE#16 ∨ s.pc = 0xFFFF#16 → s.mem.read s.pc.toNat = 0xC3#8 →
    OperandReadFault s)

/-- 47_jump.md R136, R137. -/
def Obligations.ConditionalJump : Prop :=
  (∀ n, [Cond.nz, .z, .nc, .c].map (fun cc => encode (.jpCcA16 cc n)) =
    [[0xC2#8, loByte n, hiByte n], [0xCA#8, loByte n, hiByte n], [0xD2#8, loByte n, hiByte n],
      [0xDA#8, loByte n, hiByte n]]) ∧
  (∀ s : State, s.cond .nz = !s.readFlag .z ∧ s.cond .z = s.readFlag .z ∧ s.cond .nc = !s.readFlag .c ∧
    s.cond .c = s.readFlag .c) ∧
  (∀ (cc : Cond) (n : Word) (s : State), holds s cc = true →
    s.cycles.toNat + Config.cycleCost .jpCcTaken < Config.cycleLimit →
    exec (.jpCcA16 cc n) s =
      .next { s with pc := n, cycles := s.cycles + BitVec.ofNat 64 (Config.cycleCost .jpCcTaken) }) ∧
  (∀ (cc : Cond) (n : Word) (s : State), holds s cc = false → RoomFor s 3 .jpCcNotTaken →
    exec (.jpCcA16 cc n) s =
      .next { s with pc := s.pc + 3#16, cycles := s.cycles + BitVec.ofNat 64 (Config.cycleCost .jpCcNotTaken) }) ∧
  (∀ (cc : Cond) (n : Word) (s : State), holds s cc = false → s.pc = 0xFFFD#16 → NextPcFault (.jpCcA16 cc n) s) ∧
  (∀ s : State, s.status = .running → s.pc = 0xFFFE#16 ∨ s.pc = 0xFFFF#16 →
    s.mem.read s.pc.toNat ∈ [0xC2#8, 0xCA#8, 0xD2#8, 0xDA#8] → OperandReadFault s)

/-- 48_halt.md R140. -/
def Obligations.HaltEndsTheRun : Prop :=
  encode .halt = [0x76#8] ∧
  (∀ s : State, RoomFor s 1 .halt →
    exec .halt s =
      .next { s with
        pc := s.pc + 1#16
        cycles := s.cycles + BitVec.ofNat 64 (Config.cycleCost .halt)
        status := .halted s.pc }) ∧
  (∀ (s t u : State), s.pc ≠ 0xFFFF#16 → exec .halt s = .next t → step t ≠ .next u) ∧
  (∀ s : State, s.pc = 0xFFFF#16 → NextPcFault .halt s)

/-- 10_state.md R21, R33. -/
def Obligations.ResetMeetsInvariant : Prop :=
  State.reset.inv ∧ ∀ (image : List Byte) (s : State), load image = .loaded s → s.inv

/-- 10_state.md R21 as an invariant of the step, with the canonical form of memory. -/
def Obligations.StepKeepsInvariant : Prop :=
  ∀ s t : State, s.inv → Sys2Proof.Machine.step s = .next t → t.inv

/-- 10_state.md R21. -/
def Obligations.LowNibbleZeroWhenReachable : Prop :=
  (∀ s : State, Reachable s → s.lowNibbleZero) ∧
  (∀ (s : State) (g : Flag) (b : Bool), SameLowNibble s (s.writeFlag g b)) ∧
  (∀ (s : State) (v : Word), (s.writeU16 .af v).readU16 .af = v) ∧
  (∀ (s : State) (v : Byte), (s.writeU8 .f v).readU8 .f = v)

/-- 10_state.md R25 for a step, with the address R202 gives. -/
def Obligations.StepNextPcPastTopFaults : Prop :=
  (∀ (s : State) (length : Nat), length ≤ 3 → (s.fallThrough length).toNat = s.pc.toNat + length) ∧
  (∀ (s : State) (i : Instr) (rest : List Byte), s.status = .running → decode s.fetchBytes = .ok i rest →
    0x10000 ≤ nextPc i s →
    nextPc i s = 0x10000 ∧
      step s = .next (s.raise (.outOfRange s.pc (s.mem.read s.pc.toNat) .nextPc 0x10000#17))) ∧
  (∀ (n : Word) (s : State), nextPc (.jpA16 n) s < 0x10000) ∧
  (∀ (cc : Cond) (n : Word) (s : State), holds s cc = true → nextPc (.jpCcA16 cc n) s < 0x10000)

/-- 70_reset_and_hazards.md R262, 93_implementation_defined.md I6: the table as an argument. The machine of the host is the one of
the default table (log entry 1). -/
def Obligations.AnyCostTableRunsTheMachine : Prop :=
  (∀ (costs : CycleCost) (i : Instr) (s : State), nextPc i s < 0x10000 →
    s.cycles.toNat + costs (costOf i s) < 2 ^ 64 →
    ∃ t, execWith costs i s = .next t ∧ t.pc.toNat = nextPc i s ∧
      t.cycles.toNat = s.cycles.toNat + costs (costOf i s) ∧
      ∃ u, exec i { s with cycles := 0#64 } = .next u ∧ t = { u with cycles := t.cycles }) ∧
  (∀ (costs : CycleCost) (i : Instr) (s : State), nextPc i s < 0x10000 →
    2 ^ 64 ≤ s.cycles.toNat + costs (costOf i s) → execWith costs i s = .refused .cycleCounterOverflow) ∧
  (∀ (costs : CycleCost) (i : Instr) (s : State), 0x10000 ≤ nextPc i s → execWith costs i s = exec i s) ∧
  (∀ (costs : CycleCost) (s : State) (i : Instr) (rest : List Byte), s.status = .running →
    decode s.fetchBytes = .ok i rest → stepWith costs s = execWith costs i s) ∧
  (∀ (costs : CycleCost) (s : State), (∀ i rest, decode s.fetchBytes ≠ .ok i rest) ∨ s.status ≠ .running →
    stepWith costs s = step s) ∧
  (∀ i s, exec i s = execWith Config.cycleCost i s) ∧ (∀ s, step s = stepWith Config.cycleCost s) ∧
  (∀ fuel s, run fuel s = runWith Config.cycleCost fuel s) ∧ Sys2Proof.core = coreWith Config.cycleCost

/-- The model's memory list (log entry 5) along every run, over the address space of 10_state.md R26 and 20_memory.md R40. -/
def Obligations.ReachableMemoryIsItsBytes : Prop :=
  (∀ s : State, Reachable s → Memory.wf s.mem = true) ∧
  (∀ s t : State, Reachable s → Reachable t → (∀ a, a < 0x10000 → t.mem.read a = s.mem.read a) → t.mem = s.mem)
end

