-- ==== Sys2Proof/Laws/Lanes.lean ====
section
/-! SUPPORT. The bit laws of the lanes of a pair and of the flag masks (spec/10_state.md R12, R15 to R20). -/

namespace Sys2Proof.Machine

theorem getLsbD_ff (i : Nat) : (0x00FF#16).getLsbD i = decide (i < 8) := by
  rcases Nat.lt_or_ge i 16 with h | h
  · interval_cases i <;> rfl
  · rw [BitVec.getLsbD_of_ge _ _ h]
    simp
    omega

theorem getLsbD_ff00 (i : Nat) : (0xFF00#16).getLsbD i = (decide (8 ≤ i) && decide (i < 16)) := by
  rcases Nat.lt_or_ge i 16 with h | h
  · interval_cases i <;> rfl
  · rw [BitVec.getLsbD_of_ge _ _ h]
    simp
    omega

/-- The high lane is bits 15:8 (R15). -/
theorem highLane_eq (p : Word) : highLane p = p.extractLsb' 8 8 := by
  apply BitVec.eq_of_getLsbD_eq
  intro i hi
  simp [highLane, hi]

/-- The low lane is bits 7:0 (R15). -/
theorem lowLane_eq (p : Word) : lowLane p = p.extractLsb' 0 8 := by
  apply BitVec.eq_of_getLsbD_eq
  intro i hi
  simp only [lowLane, BitVec.truncate_eq_setWidth, BitVec.getLsbD_setWidth, BitVec.getLsbD_and, getLsbD_ff,
    BitVec.getLsbD_extractLsb']
  simp [hi]

/-- A pair is its high lane followed by its low lane (R12). -/
theorem high_append_low (p : Word) : (highLane p ++ lowLane p : Word) = p := by
  rw [highLane_eq, lowLane_eq]
  apply BitVec.eq_of_getLsbD_eq
  intro i hi
  simp only [BitVec.getLsbD_append, BitVec.getLsbD_extractLsb']
  by_cases h : i < 8
  · simp [h]
  · simp [h, show i - 8 < 8 by omega, show 8 + (i - 8) = i by omega]

/-- Writing the high lane puts the value in front of the low lane (R16). -/
theorem withHighLane_eq (p : Word) (v : Byte) : withHighLane p v = v ++ lowLane p := by
  rw [lowLane_eq]
  apply BitVec.eq_of_getLsbD_eq
  intro i hi
  simp only [withHighLane, BitVec.getLsbD_or, BitVec.getLsbD_and, getLsbD_ff, BitVec.getLsbD_shiftLeft,
    BitVec.getLsbD_setWidth, BitVec.getLsbD_append, BitVec.getLsbD_extractLsb']
  by_cases h : i < 8
  · simp [h]
  · simp [h, hi, show i - 8 < 16 by omega]

/-- Writing the low lane puts the value behind the high lane (R16). -/
theorem withLowLane_eq (p : Word) (v : Byte) : withLowLane p v = highLane p ++ v := by
  rw [highLane_eq]
  apply BitVec.eq_of_getLsbD_eq
  intro i hi
  simp only [withLowLane, BitVec.getLsbD_or, BitVec.getLsbD_and, getLsbD_ff00,
    BitVec.getLsbD_setWidth, BitVec.getLsbD_append, BitVec.getLsbD_extractLsb']
  by_cases h : i < 8
  · simp [h, hi]
  · simp [h, hi, show i - 8 < 8 by omega, show 8 + (i - 8) = i by omega, show 8 ≤ i by omega]

@[simp] theorem highLane_append (u v : Byte) : highLane (u ++ v : Word) = u := by
  have h : ∀ i, (u ++ v : Word).getLsbD i = if i < 8 then v.getLsbD i else u.getLsbD (i - 8) :=
    fun i => BitVec.getLsbD_append
  rw [highLane_eq]
  apply BitVec.eq_of_getLsbD_eq
  intro i hi
  simp only [BitVec.getLsbD_extractLsb', h]
  simp [hi]

@[simp] theorem lowLane_append (u v : Byte) : lowLane (u ++ v : Word) = v := by
  have h : ∀ i, (u ++ v : Word).getLsbD i = if i < 8 then v.getLsbD i else u.getLsbD (i - 8) :=
    fun i => BitVec.getLsbD_append
  rw [lowLane_eq]
  apply BitVec.eq_of_getLsbD_eq
  intro i hi
  simp only [BitVec.getLsbD_extractLsb', h]
  simp [hi]

@[simp] theorem highLane_withHighLane (p : Word) (v : Byte) : highLane (withHighLane p v) = v := by
  simp [withHighLane_eq]

@[simp] theorem lowLane_withHighLane (p : Word) (v : Byte) : lowLane (withHighLane p v) = lowLane p := by
  simp [withHighLane_eq]

@[simp] theorem highLane_withLowLane (p : Word) (v : Byte) : highLane (withLowLane p v) = highLane p := by
  simp [withLowLane_eq]

@[simp] theorem lowLane_withLowLane (p : Word) (v : Byte) : lowLane (withLowLane p v) = v := by
  simp [withLowLane_eq]

/-- A mask has the one bit of its flag (R18). -/
theorem getLsbD_flagMask (flag : Flag) (i : Nat) : (flagMask flag).getLsbD i = decide (i = flagBit flag) := by
  rcases Nat.lt_or_ge i 16 with h | h
  · cases flag <;> interval_cases i <;> rfl
  · have : i ≠ flagBit flag := by cases flag <;> simp only [flagBit] <;> omega
    rw [BitVec.getLsbD_of_ge _ _ h]
    simp [this]

end Sys2Proof.Machine
end

