-- ==== Sys2Proof/Laws/State.lean ====
section
/-! SUPPORT. The laws of the state: one lemma per field per update, and the laws of the six ports (spec/10_state.md R13 to R20). -/

namespace Sys2Proof.Machine

/-! ## raise -/

@[simp] theorem State.raise_af (s : State) (info : EngineFault) : (s.raise info).af = s.af := rfl
@[simp] theorem State.raise_bc (s : State) (info : EngineFault) : (s.raise info).bc = s.bc := rfl
@[simp] theorem State.raise_de (s : State) (info : EngineFault) : (s.raise info).de = s.de := rfl
@[simp] theorem State.raise_hl (s : State) (info : EngineFault) : (s.raise info).hl = s.hl := rfl
@[simp] theorem State.raise_sp (s : State) (info : EngineFault) : (s.raise info).sp = s.sp := rfl
@[simp] theorem State.raise_pc (s : State) (info : EngineFault) : (s.raise info).pc = s.pc := rfl
@[simp] theorem State.raise_mem (s : State) (info : EngineFault) : (s.raise info).mem = s.mem := rfl
@[simp] theorem State.raise_cycles (s : State) (info : EngineFault) : (s.raise info).cycles = s.cycles := rfl

@[simp] theorem State.raise_status (s : State) (info : EngineFault) : (s.raise info).status = .faulted info := rfl

/-! ## memWrite -/

@[simp] theorem State.memWrite_af (s : State) (a : Word) (v : Byte) : (s.memWrite a v).af = s.af := rfl
@[simp] theorem State.memWrite_bc (s : State) (a : Word) (v : Byte) : (s.memWrite a v).bc = s.bc := rfl
@[simp] theorem State.memWrite_de (s : State) (a : Word) (v : Byte) : (s.memWrite a v).de = s.de := rfl
@[simp] theorem State.memWrite_hl (s : State) (a : Word) (v : Byte) : (s.memWrite a v).hl = s.hl := rfl
@[simp] theorem State.memWrite_sp (s : State) (a : Word) (v : Byte) : (s.memWrite a v).sp = s.sp := rfl
@[simp] theorem State.memWrite_pc (s : State) (a : Word) (v : Byte) : (s.memWrite a v).pc = s.pc := rfl
@[simp] theorem State.memWrite_cycles (s : State) (a : Word) (v : Byte) : (s.memWrite a v).cycles = s.cycles := rfl
@[simp] theorem State.memWrite_status (s : State) (a : Word) (v : Byte) : (s.memWrite a v).status = s.status := rfl

@[simp] theorem State.memWrite_mem (s : State) (a : Word) (v : Byte) : (s.memWrite a v).mem = s.mem.write a.toNat v := rfl

/-! ## writeFlag -/

@[simp] theorem State.writeFlag_bc (s : State) (g : Flag) (b : Bool) : (s.writeFlag g b).bc = s.bc := rfl
@[simp] theorem State.writeFlag_de (s : State) (g : Flag) (b : Bool) : (s.writeFlag g b).de = s.de := rfl
@[simp] theorem State.writeFlag_hl (s : State) (g : Flag) (b : Bool) : (s.writeFlag g b).hl = s.hl := rfl
@[simp] theorem State.writeFlag_sp (s : State) (g : Flag) (b : Bool) : (s.writeFlag g b).sp = s.sp := rfl
@[simp] theorem State.writeFlag_pc (s : State) (g : Flag) (b : Bool) : (s.writeFlag g b).pc = s.pc := rfl
@[simp] theorem State.writeFlag_mem (s : State) (g : Flag) (b : Bool) : (s.writeFlag g b).mem = s.mem := rfl
@[simp] theorem State.writeFlag_cycles (s : State) (g : Flag) (b : Bool) : (s.writeFlag g b).cycles = s.cycles := rfl
@[simp] theorem State.writeFlag_status (s : State) (g : Flag) (b : Bool) : (s.writeFlag g b).status = s.status := rfl

/-! ## writeU16 -/

@[simp] theorem State.writeU16_mem (s : State) (sl : Slot) (v : Word) : (s.writeU16 sl v).mem = s.mem := by cases sl <;> rfl
@[simp] theorem State.writeU16_cycles (s : State) (sl : Slot) (v : Word) : (s.writeU16 sl v).cycles = s.cycles := by cases sl <;> rfl
@[simp] theorem State.writeU16_status (s : State) (sl : Slot) (v : Word) : (s.writeU16 sl v).status = s.status := by cases sl <;> rfl

@[simp] theorem State.writeU16_af (s : State) (v : Word) : (s.writeU16 .af v) = { s with af := v } := rfl
@[simp] theorem State.writeU16_bc (s : State) (v : Word) : (s.writeU16 .bc v) = { s with bc := v } := rfl
@[simp] theorem State.writeU16_de (s : State) (v : Word) : (s.writeU16 .de v) = { s with de := v } := rfl
@[simp] theorem State.writeU16_hl (s : State) (v : Word) : (s.writeU16 .hl v) = { s with hl := v } := rfl
@[simp] theorem State.writeU16_sp (s : State) (v : Word) : (s.writeU16 .sp v) = { s with sp := v } := rfl
@[simp] theorem State.writeU16_pc (s : State) (v : Word) : (s.writeU16 .pc v) = { s with pc := v } := rfl

/-! ## writeU8 -/

@[simp] theorem State.writeU8_sp (s : State) (ln : Lane) (v : Byte) : (s.writeU8 ln v).sp = s.sp := by cases ln <;> rfl
@[simp] theorem State.writeU8_pc (s : State) (ln : Lane) (v : Byte) : (s.writeU8 ln v).pc = s.pc := by cases ln <;> rfl
@[simp] theorem State.writeU8_mem (s : State) (ln : Lane) (v : Byte) : (s.writeU8 ln v).mem = s.mem := by cases ln <;> rfl
@[simp] theorem State.writeU8_cycles (s : State) (ln : Lane) (v : Byte) : (s.writeU8 ln v).cycles = s.cycles := by cases ln <;> rfl
@[simp] theorem State.writeU8_status (s : State) (ln : Lane) (v : Byte) : (s.writeU8 ln v).status = s.status := by cases ln <;> rfl

/-! ## writeZNH -/

@[simp] theorem State.writeZNH_bc (s : State) (z n h : Bool) : (s.writeZNH z n h).bc = s.bc := rfl
@[simp] theorem State.writeZNH_de (s : State) (z n h : Bool) : (s.writeZNH z n h).de = s.de := rfl
@[simp] theorem State.writeZNH_hl (s : State) (z n h : Bool) : (s.writeZNH z n h).hl = s.hl := rfl
@[simp] theorem State.writeZNH_sp (s : State) (z n h : Bool) : (s.writeZNH z n h).sp = s.sp := rfl
@[simp] theorem State.writeZNH_pc (s : State) (z n h : Bool) : (s.writeZNH z n h).pc = s.pc := rfl
@[simp] theorem State.writeZNH_mem (s : State) (z n h : Bool) : (s.writeZNH z n h).mem = s.mem := rfl
@[simp] theorem State.writeZNH_cycles (s : State) (z n h : Bool) : (s.writeZNH z n h).cycles = s.cycles := rfl
@[simp] theorem State.writeZNH_status (s : State) (z n h : Bool) : (s.writeZNH z n h).status = s.status := rfl

/-! ## writeZNHC -/

@[simp] theorem State.writeZNHC_bc (s : State) (z n h c : Bool) : (s.writeZNHC z n h c).bc = s.bc := rfl
@[simp] theorem State.writeZNHC_de (s : State) (z n h c : Bool) : (s.writeZNHC z n h c).de = s.de := rfl
@[simp] theorem State.writeZNHC_hl (s : State) (z n h c : Bool) : (s.writeZNHC z n h c).hl = s.hl := rfl
@[simp] theorem State.writeZNHC_sp (s : State) (z n h c : Bool) : (s.writeZNHC z n h c).sp = s.sp := rfl
@[simp] theorem State.writeZNHC_pc (s : State) (z n h c : Bool) : (s.writeZNHC z n h c).pc = s.pc := rfl
@[simp] theorem State.writeZNHC_mem (s : State) (z n h c : Bool) : (s.writeZNHC z n h c).mem = s.mem := rfl
@[simp] theorem State.writeZNHC_cycles (s : State) (z n h c : Bool) : (s.writeZNHC z n h c).cycles = s.cycles := rfl
@[simp] theorem State.writeZNHC_status (s : State) (z n h c : Bool) : (s.writeZNHC z n h c).status = s.status := rfl

/-! ## writeAlu -/

@[simp] theorem State.writeAlu_sp (s : State) (ln : Lane) (o : AluOut) : (s.writeAlu ln o).sp = s.sp := by cases ln <;> rfl
@[simp] theorem State.writeAlu_pc (s : State) (ln : Lane) (o : AluOut) : (s.writeAlu ln o).pc = s.pc := by cases ln <;> rfl
@[simp] theorem State.writeAlu_mem (s : State) (ln : Lane) (o : AluOut) : (s.writeAlu ln o).mem = s.mem := by cases ln <;> rfl
@[simp] theorem State.writeAlu_cycles (s : State) (ln : Lane) (o : AluOut) : (s.writeAlu ln o).cycles = s.cycles := by cases ln <;> rfl
@[simp] theorem State.writeAlu_status (s : State) (ln : Lane) (o : AluOut) : (s.writeAlu ln o).status = s.status := by cases ln <;> rfl

/-! ## The ports over slots (R13, R14) -/

@[simp] theorem State.readU16_writeU16_same (s : State) (sl : Slot) (v : Word) :
    (s.writeU16 sl v).readU16 sl = v := by cases sl <;> rfl

theorem State.readU16_writeU16_other (s : State) (sl sl' : Slot) (v : Word) (h : sl' ≠ sl) :
    (s.writeU16 sl v).readU16 sl' = s.readU16 sl' := by
  cases sl <;> cases sl' <;> first | rfl | exact absurd rfl h

/-! ## The ports over lanes (R15 to R17) -/

/-- A lane write seen through the 16-bit view: the pair of the lane changes, no other slot does (R16). -/
theorem State.readU16_writeU8 (s : State) (ln : Lane) (v : Byte) (sl : Slot) :
    (s.writeU8 ln v).readU16 sl =
      if sl = lanePair ln then
        if laneIsHigh ln then v ++ lowLane (s.readU16 sl) else highLane (s.readU16 sl) ++ v
      else s.readU16 sl := by
  cases ln <;> cases sl <;>
    simp [State.writeU8, State.readU16, lanePair, laneIsHigh, withHighLane_eq, withLowLane_eq]

@[simp] theorem State.readU8_writeU8_same (s : State) (ln : Lane) (v : Byte) : (s.writeU8 ln v).readU8 ln = v := by
  cases ln <;> simp [State.readU8, State.writeU8, State.readU16, lanePair, laneIsHigh]

theorem State.readU8_writeU8_other (s : State) (ln ln' : Lane) (v : Byte) (h : ln' ≠ ln) :
    (s.writeU8 ln v).readU8 ln' = s.readU8 ln' := by
  cases ln <;> cases ln' <;>
    first
    | exact absurd rfl h
    | simp [State.readU8, State.writeU8, State.readU16, lanePair, laneIsHigh]

/-! ## The ports over flags (R19, R20) -/

/-- Bit `i` of AF after a flag write (R20). -/
theorem State.af_writeFlag_bit (s : State) (g : Flag) (b : Bool) (i : Nat) :
    (s.writeFlag g b).af.getLsbD i = if i = flagBit g then b else s.af.getLsbD i := by
  have hg : flagBit g < 16 := by cases g <;> decide
  cases b
  · simp only [State.writeFlag, Bool.false_eq_true, if_false, BitVec.getLsbD_and, BitVec.getLsbD_not, getLsbD_flagMask]
    by_cases hi : i = flagBit g
    · simp [hi]
    · by_cases h16 : i < 16
      · simp [hi, h16]
      · simp [hi, BitVec.getLsbD_of_ge _ _ (Nat.le_of_not_lt h16)]
  · simp only [State.writeFlag, if_true, BitVec.getLsbD_or, getLsbD_flagMask]
    by_cases hi : i = flagBit g <;> simp [hi]

/-- Lane F is bits 7:0 of AF and a flag is its bit there (R12, R18). -/
theorem State.readFlag_eq (s : State) (g : Flag) : s.readFlag g = s.af.getLsbD (flagBit g) := by
  have hg : flagBit g < 8 := by cases g <;> decide
  show (lowLane s.af).getLsbD (flagBit g) = _
  rw [lowLane_eq, BitVec.getLsbD_extractLsb']
  simp [hg]

theorem State.readFlag_writeFlag (s : State) (g g' : Flag) (b : Bool) :
    (s.writeFlag g b).readFlag g' = if g' = g then b else s.readFlag g' := by
  rw [State.readFlag_eq, State.readFlag_eq, State.af_writeFlag_bit]
  cases g <;> cases g' <;> rfl

@[simp] theorem State.readFlag_writeFlag_same (s : State) (g : Flag) (b : Bool) :
    (s.writeFlag g b).readFlag g = b := by simp [State.readFlag_writeFlag]

theorem State.readFlag_writeFlag_other (s : State) (g g' : Flag) (b : Bool) (h : g' ≠ g) :
    (s.writeFlag g b).readFlag g' = s.readFlag g' := by simp [State.readFlag_writeFlag, h]

/-- A flag write leaves every lane but F alone (R20). -/
theorem State.readU8_writeFlag (s : State) (g : Flag) (b : Bool) (ln : Lane) (h : ln ≠ .f) :
    (s.writeFlag g b).readU8 ln = s.readU8 ln := by
  cases ln <;> first | exact absurd rfl h | rfl | skip
  show highLane (s.writeFlag g b).af = highLane s.af
  rw [highLane_eq, highLane_eq]
  apply BitVec.eq_of_getLsbD_eq
  intro i hi
  have : 8 + i ≠ flagBit g := by cases g <;> simp only [flagBit] <;> omega
  simp only [BitVec.getLsbD_extractLsb', State.af_writeFlag_bit, this, if_false]

/-- The low nibble of F, bit by bit. -/
theorem State.lowNibble_bit (s : State) (i : Nat) :
    ((s.readU8 .f).extractLsb' 0 4).getLsbD i = (decide (i < 4) && s.af.getLsbD i) := by
  show ((lowLane s.af).extractLsb' 0 4).getLsbD i = _
  rw [lowLane_eq, BitVec.getLsbD_extractLsb', BitVec.getLsbD_extractLsb']
  by_cases h : i < 4
  · simp [h, show i < 8 by omega]
  · simp [h]

/-- A flag write leaves the low nibble of F alone (R20). -/
@[simp] theorem State.lowNibble_writeFlag (s : State) (g : Flag) (b : Bool) :
    ((s.writeFlag g b).readU8 .f).extractLsb' 0 4 = (s.readU8 .f).extractLsb' 0 4 := by
  apply BitVec.eq_of_getLsbD_eq
  intro i hi
  have : i ≠ flagBit g := by cases g <;> simp only [flagBit] <;> omega
  rw [State.lowNibble_bit, State.lowNibble_bit, State.af_writeFlag_bit, if_neg this]

/-- A lane write leaves the flags alone unless the lane is F (R17). -/
theorem State.readFlag_writeU8 (s : State) (ln : Lane) (v : Byte) (g : Flag) (h : ln ≠ .f) :
    (s.writeU8 ln v).readFlag g = s.readFlag g := by
  simp only [State.readFlag, State.readU8_writeU8_other s ln .f v (Ne.symm h)]

/-! ## The derived updates -/

@[simp] theorem State.readU8_memWrite (s : State) (a : Word) (v : Byte) (ln : Lane) :
    (s.memWrite a v).readU8 ln = s.readU8 ln := by cases ln <;> rfl
@[simp] theorem State.readFlag_memWrite (s : State) (a : Word) (v : Byte) (g : Flag) :
    (s.memWrite a v).readFlag g = s.readFlag g := rfl
@[simp] theorem State.readU16_memWrite (s : State) (a : Word) (v : Byte) (sl : Slot) :
    (s.memWrite a v).readU16 sl = s.readU16 sl := by cases sl <;> rfl

/-- A slot write seen through the lanes of another pair (R37). -/
theorem State.readU8_writeU16_other (s : State) (sl : Slot) (v : Word) (ln : Lane) (h : lanePair ln ≠ sl) :
    (s.writeU16 sl v).readU8 ln = s.readU8 ln := by
  simp only [State.readU8, State.readU16_writeU16_other s sl _ v h]

/-- A slot write other than to AF leaves the flags alone. -/
theorem State.readFlag_writeU16 (s : State) (sl : Slot) (v : Word) (g : Flag) (h : sl ≠ .af) :
    (s.writeU16 sl v).readFlag g = s.readFlag g := by
  simp only [State.readFlag, State.readU8_writeU16_other s sl v .f (Ne.symm h)]

theorem State.lowNibble_writeU8 (s : State) (ln : Lane) (v : Byte) (h : ln ≠ .f) :
    ((s.writeU8 ln v).readU8 .f).extractLsb' 0 4 = (s.readU8 .f).extractLsb' 0 4 := by
  rw [State.readU8_writeU8_other s ln .f v (Ne.symm h)]

@[simp] theorem State.lowNibble_writeZNH (s : State) (z n h : Bool) :
    ((s.writeZNH z n h).readU8 .f).extractLsb' 0 4 = (s.readU8 .f).extractLsb' 0 4 := by
  simp only [State.writeZNH, State.lowNibble_writeFlag]

@[simp] theorem State.lowNibble_writeZNHC (s : State) (z n h c : Bool) :
    ((s.writeZNHC z n h c).readU8 .f).extractLsb' 0 4 = (s.readU8 .f).extractLsb' 0 4 := by
  simp only [State.writeZNHC, State.lowNibble_writeFlag, State.lowNibble_writeZNH]

theorem State.readU8_writeZNH (s : State) (z n h : Bool) (ln : Lane) (hl : ln ≠ .f) :
    (s.writeZNH z n h).readU8 ln = s.readU8 ln := by
  simp only [State.writeZNH, State.readU8_writeFlag _ _ _ ln hl]

theorem State.readU8_writeZNHC (s : State) (z n h c : Bool) (ln : Lane) (hl : ln ≠ .f) :
    (s.writeZNHC z n h c).readU8 ln = s.readU8 ln := by
  simp only [State.writeZNHC, State.readU8_writeFlag _ _ _ ln hl, State.readU8_writeZNH _ _ _ _ ln hl]

/-- The flags after a write of Z, N and H. -/
theorem State.readFlag_writeZNH (s : State) (z n h : Bool) (g : Flag) :
    (s.writeZNH z n h).readFlag g =
      match g with
      | .z => z
      | .n => n
      | .h => h
      | .c => s.readFlag .c := by
  cases g <;> simp [State.writeZNH, State.readFlag_writeFlag]

/-- The flags after a write of Z, N, H and C. -/
theorem State.readFlag_writeZNHC (s : State) (z n h c : Bool) (g : Flag) :
    (s.writeZNHC z n h c).readFlag g =
      match g with
      | .z => z
      | .n => n
      | .h => h
      | .c => c := by
  cases g <;> simp [State.writeZNHC, State.readFlag_writeFlag, State.readFlag_writeZNH]

theorem State.readU8_writeAlu (s : State) (ln ln' : Lane) (o : AluOut) (h : ln' ≠ .f) :
    (s.writeAlu ln o).readU8 ln' = if ln' = ln then o.res else s.readU8 ln' := by
  rw [State.writeAlu, State.readU8_writeZNH _ _ _ _ ln' h]
  by_cases hl : ln' = ln
  · simp [hl]
  · simp [hl, State.readU8_writeU8_other s ln ln' o.res hl]

theorem State.readFlag_writeAlu_carry (s : State) (ln : Lane) (o : AluOut) (h : ln ≠ .f) :
    (s.writeAlu ln o).readFlag .c = s.readFlag .c := by
  rw [State.writeAlu, State.readFlag_writeZNH]
  exact State.readFlag_writeU8 s ln o.res .c h

theorem State.lowNibble_writeAlu (s : State) (ln : Lane) (o : AluOut) (h : ln ≠ .f) :
    ((s.writeAlu ln o).readU8 .f).extractLsb' 0 4 = (s.readU8 .f).extractLsb' 0 4 := by
  rw [State.writeAlu, State.lowNibble_writeZNH, State.lowNibble_writeU8 s ln o.res h]

end Sys2Proof.Machine
end

