-- ==== Sys2Proof/Laws/Commit.lean ====
section
/-! SUPPORT. What commit can do, said once (spec/30_encoding.md R72, R73; 10_state.md R25, R28), and with it every shared
operation of the instruction families. -/

namespace Sys2Proof.Machine

/-- The state a completed instruction leaves: the written state with the new PC and `cycles`. -/
def Action.done (costs : CycleCost) (s : State) (act : Action) : State :=
  { act.written with
    pc := act.nextPc.truncate 16
    cycles := BitVec.ofNat 64 (s.cycles.toNat + costs act.cost) }

/-- The state a next-PC fault leaves. -/
def Action.offTheTop (s : State) (act : Action) : State :=
  s.raise (.outOfRange s.pc s.opcodeByte .nextPc act.nextPc)

@[simp] theorem Action.done_af (c : CycleCost) (s : State) (act : Action) : (act.done c s).af = act.written.af := rfl
@[simp] theorem Action.done_bc (c : CycleCost) (s : State) (act : Action) : (act.done c s).bc = act.written.bc := rfl
@[simp] theorem Action.done_de (c : CycleCost) (s : State) (act : Action) : (act.done c s).de = act.written.de := rfl
@[simp] theorem Action.done_hl (c : CycleCost) (s : State) (act : Action) : (act.done c s).hl = act.written.hl := rfl
@[simp] theorem Action.done_sp (c : CycleCost) (s : State) (act : Action) : (act.done c s).sp = act.written.sp := rfl
@[simp] theorem Action.done_mem (c : CycleCost) (s : State) (act : Action) : (act.done c s).mem = act.written.mem := rfl
@[simp] theorem Action.done_status (c : CycleCost) (s : State) (act : Action) :
    (act.done c s).status = act.written.status := rfl
@[simp] theorem Action.done_pc (c : CycleCost) (s : State) (act : Action) :
    (act.done c s).pc = act.nextPc.truncate 16 := rfl
@[simp] theorem Action.done_cycles (c : CycleCost) (s : State) (act : Action) :
    (act.done c s).cycles = BitVec.ofNat 64 (s.cycles.toNat + c act.cost) := rfl

@[simp] theorem Action.done_readU8 (c : CycleCost) (s : State) (act : Action) (ln : Lane) :
    (act.done c s).readU8 ln = act.written.readU8 ln := by cases ln <;> rfl
@[simp] theorem Action.done_readFlag (c : CycleCost) (s : State) (act : Action) (g : Flag) :
    (act.done c s).readFlag g = act.written.readFlag g := rfl

/-- Commit of an action whose next PC is in memory, with room in the counter. -/
theorem commitWith_completes {costs : CycleCost} {s : State} {act : Action} (hpc : act.nextPc.toNat < Config.memSize)
    (hc : s.cycles.toNat + costs act.cost < Config.cycleLimit) :
    commitWith costs s act = .next (act.done costs s) := by
  rw [commitWith, if_neg (Nat.not_le.mpr hpc), if_neg (Nat.not_le.mpr hc)]
  rfl

/-- Commit of an action whose next PC is past the top of memory. -/
theorem commitWith_faults {costs : CycleCost} {s : State} {act : Action} (hpc : Config.memSize ≤ act.nextPc.toNat) :
    commitWith costs s act = .next (act.offTheTop s) := by
  rw [commitWith, if_pos hpc]
  rfl

/-- Commit of an action that would overflow the counter. -/
theorem commitWith_refuses {costs : CycleCost} {s : State} {act : Action} (hpc : act.nextPc.toNat < Config.memSize)
    (hc : Config.cycleLimit ≤ s.cycles.toNat + costs act.cost) :
    commitWith costs s act = .refused .cycleCounterOverflow := by
  rw [commitWith, if_neg (Nat.not_le.mpr hpc), if_pos hc]

/-- Everything a commit that answers a next state can have done. -/
theorem commitWith_cases {costs : CycleCost} {s t : State} {act : Action} (h : commitWith costs s act = .next t) :
    (Config.memSize ≤ act.nextPc.toNat ∧ t = act.offTheTop s) ∨
    (act.nextPc.toNat < Config.memSize ∧ s.cycles.toNat + costs act.cost < Config.cycleLimit ∧ t = act.done costs s) := by
  rcases Nat.lt_or_ge act.nextPc.toNat Config.memSize with hpc | hpc
  · rcases Nat.lt_or_ge (s.cycles.toNat + costs act.cost) Config.cycleLimit with hc | hc
    · rw [commitWith_completes hpc hc] at h
      exact .inr ⟨hpc, hc, (Host.Outcome.next.inj h).symm⟩
    · rw [commitWith_refuses hpc hc] at h
      cases h
  · rw [commitWith_faults hpc] at h
    exact .inl ⟨hpc, (Host.Outcome.next.inj h).symm⟩

theorem commit_completes {s : State} {act : Action} (hpc : act.nextPc.toNat < Config.memSize)
    (hc : s.cycles.toNat + Config.cycleCost act.cost < Config.cycleLimit) :
    commit s act = .next (act.done Config.cycleCost s) := commitWith_completes hpc hc

theorem commit_cases {s t : State} {act : Action} (h : commit s act = .next t) :
    (Config.memSize ≤ act.nextPc.toNat ∧ t = act.offTheTop s) ∨
    (act.nextPc.toNat < Config.memSize ∧ s.cycles.toNat + Config.cycleCost act.cost < Config.cycleLimit ∧
      t = act.done Config.cycleCost s) := commitWith_cases h

/-! ## PC arithmetic -/

/-- `pc + length` does not wrap for any declared length (10_state.md R25). -/
theorem State.fallThrough_toNat (s : State) (length : Nat) (h : length ≤ 3) :
    (s.fallThrough length).toNat = s.pc.toNat + length := by
  have := s.pc.isLt
  simp only [State.fallThrough, State.pc17, BitVec.toNat_add, BitVec.toNat_ofNat, BitVec.truncate_eq_setWidth,
    BitVec.toNat_setWidth]
  omega

/-- In range, the next PC of a fall-through is `pc + length`. -/
theorem State.fallThrough_truncate (s : State) (length : Nat) (h : length ≤ 3) :
    (s.fallThrough length).truncate 16 = s.pc + BitVec.ofNat 16 length := by
  apply BitVec.eq_of_toNat_eq
  have := s.pc.isLt
  simp only [BitVec.truncate_eq_setWidth, BitVec.toNat_setWidth, State.fallThrough_toNat s length h, BitVec.toNat_add,
    BitVec.toNat_ofNat]
  omega

/-- A jump target is in memory (10_state.md R25). -/
theorem jumpTarget_toNat (n : Word) : (jumpTarget n).toNat = n.toNat := by
  have := n.isLt
  simp only [jumpTarget, BitVec.zeroExtend_eq_setWidth, BitVec.toNat_setWidth]
  omega

@[simp] theorem jumpTarget_truncate (n : Word) : (jumpTarget n).truncate 16 = n := by
  apply BitVec.eq_of_toNat_eq
  have := n.isLt
  simp only [BitVec.truncate_eq_setWidth, BitVec.toNat_setWidth, jumpTarget_toNat]
  omega

/-- Every declared length is 1, 2 or 3 (30_encoding.md R60). -/
theorem Instr.length_le_three (i : Instr) : i.length ≤ 3 := by
  unfold Instr.length
  cases i.format <;> decide

end Sys2Proof.Machine
end

