-- ==== Sys2Proof/Laws/Exec.lean ====
section
/-! SUPPORT. Execution as one commit of an action: `exec` and `execWith` read once, and the action of every instruction in
terms of the ports, so that a proof over all instructions cites these and `commitWith_cases` and unfolds no meaning. -/

namespace Sys2Proof.Machine

/-- The writes of `RRC r` (46_rotate_shift_right.md R131). -/
def State.rotatedRight (s : State) (ln : Lane) : State :=
  (s.writeU8 ln (rotateRight1 (s.readU8 ln))).writeZNHC (rotateRight1 (s.readU8 ln) == 0#8) false false
    (shiftedOut (s.readU8 ln))

/-- The writes of `SRL r` (46_rotate_shift_right.md R132). -/
def State.shiftedRight (s : State) (ln : Lane) : State :=
  (s.writeU8 ln (shiftRight1 (s.readU8 ln))).writeZNHC (shiftRight1 (s.readU8 ln) == 0#8) false false
    (shiftedOut (s.readU8 ln))

/-! ## The action of every instruction -/

@[simp] theorem actionOf_nop (s : State) : actionOf .nop s = ⟨s, s.fallThrough 1, .nop⟩ := rfl
@[simp] theorem actionOf_ldBcD16 (n : Word) (s : State) :
    actionOf (.ldBcD16 n) s = ⟨s.writeU16 .bc n, s.fallThrough 3, .ldRrD16⟩ := rfl
@[simp] theorem actionOf_ldIndBcA (s : State) :
    actionOf .ldIndBcA s = ⟨s.memWrite (s.storeAddress .bc) (s.readU8 .a), s.fallThrough 1, .ldIndPpA⟩ := rfl
@[simp] theorem actionOf_incBc (s : State) :
    actionOf .incBc s = ⟨s.writeU16 .bc (s.readU16 .bc + 1#16), s.fallThrough 1, .incRr⟩ := rfl
@[simp] theorem actionOf_incB (s : State) :
    actionOf .incB s = ⟨s.writeAlu .b (aluInc8 (s.readU8 .b)), s.fallThrough 1, .incR⟩ := rfl
@[simp] theorem actionOf_decB (s : State) :
    actionOf .decB s = ⟨s.writeAlu .b (aluDec8 (s.readU8 .b)), s.fallThrough 1, .decR⟩ := rfl
@[simp] theorem actionOf_ldBD8 (n : Byte) (s : State) :
    actionOf (.ldBD8 n) s = ⟨s.writeU8 .b n, s.fallThrough 2, .ldRD8⟩ := rfl
@[simp] theorem actionOf_decBc (s : State) :
    actionOf .decBc s = ⟨s.writeU16 .bc (s.readU16 .bc - 1#16), s.fallThrough 1, .decRr⟩ := rfl
@[simp] theorem actionOf_incC (s : State) :
    actionOf .incC s = ⟨s.writeAlu .c (aluInc8 (s.readU8 .c)), s.fallThrough 1, .incR⟩ := rfl
@[simp] theorem actionOf_decC (s : State) :
    actionOf .decC s = ⟨s.writeAlu .c (aluDec8 (s.readU8 .c)), s.fallThrough 1, .decR⟩ := rfl
@[simp] theorem actionOf_ldCD8 (n : Byte) (s : State) :
    actionOf (.ldCD8 n) s = ⟨s.writeU8 .c n, s.fallThrough 2, .ldRD8⟩ := rfl
@[simp] theorem actionOf_rrca (s : State) :
    actionOf .rrca s =
      ⟨(s.writeU8 .a (rotateRight1 (s.readU8 .a))).writeZNHC false false false (shiftedOut (s.readU8 .a)), s.fallThrough 1, .rrca⟩ := rfl
@[simp] theorem actionOf_ldDeD16 (n : Word) (s : State) :
    actionOf (.ldDeD16 n) s = ⟨s.writeU16 .de n, s.fallThrough 3, .ldRrD16⟩ := rfl
@[simp] theorem actionOf_ldIndDeA (s : State) :
    actionOf .ldIndDeA s = ⟨s.memWrite (s.storeAddress .de) (s.readU8 .a), s.fallThrough 1, .ldIndPpA⟩ := rfl
@[simp] theorem actionOf_incDe (s : State) :
    actionOf .incDe s = ⟨s.writeU16 .de (s.readU16 .de + 1#16), s.fallThrough 1, .incRr⟩ := rfl
@[simp] theorem actionOf_incD (s : State) :
    actionOf .incD s = ⟨s.writeAlu .d (aluInc8 (s.readU8 .d)), s.fallThrough 1, .incR⟩ := rfl
@[simp] theorem actionOf_decD (s : State) :
    actionOf .decD s = ⟨s.writeAlu .d (aluDec8 (s.readU8 .d)), s.fallThrough 1, .decR⟩ := rfl
@[simp] theorem actionOf_ldDD8 (n : Byte) (s : State) :
    actionOf (.ldDD8 n) s = ⟨s.writeU8 .d n, s.fallThrough 2, .ldRD8⟩ := rfl
@[simp] theorem actionOf_decDe (s : State) :
    actionOf .decDe s = ⟨s.writeU16 .de (s.readU16 .de - 1#16), s.fallThrough 1, .decRr⟩ := rfl
@[simp] theorem actionOf_incE (s : State) :
    actionOf .incE s = ⟨s.writeAlu .e (aluInc8 (s.readU8 .e)), s.fallThrough 1, .incR⟩ := rfl
@[simp] theorem actionOf_decE (s : State) :
    actionOf .decE s = ⟨s.writeAlu .e (aluDec8 (s.readU8 .e)), s.fallThrough 1, .decR⟩ := rfl
@[simp] theorem actionOf_ldED8 (n : Byte) (s : State) :
    actionOf (.ldED8 n) s = ⟨s.writeU8 .e n, s.fallThrough 2, .ldRD8⟩ := rfl
@[simp] theorem actionOf_ldHlD16 (n : Word) (s : State) :
    actionOf (.ldHlD16 n) s = ⟨s.writeU16 .hl n, s.fallThrough 3, .ldRrD16⟩ := rfl
@[simp] theorem actionOf_incHl (s : State) :
    actionOf .incHl s = ⟨s.writeU16 .hl (s.readU16 .hl + 1#16), s.fallThrough 1, .incRr⟩ := rfl
@[simp] theorem actionOf_incH (s : State) :
    actionOf .incH s = ⟨s.writeAlu .h (aluInc8 (s.readU8 .h)), s.fallThrough 1, .incR⟩ := rfl
@[simp] theorem actionOf_decH (s : State) :
    actionOf .decH s = ⟨s.writeAlu .h (aluDec8 (s.readU8 .h)), s.fallThrough 1, .decR⟩ := rfl
@[simp] theorem actionOf_ldHD8 (n : Byte) (s : State) :
    actionOf (.ldHD8 n) s = ⟨s.writeU8 .h n, s.fallThrough 2, .ldRD8⟩ := rfl
@[simp] theorem actionOf_decHl (s : State) :
    actionOf .decHl s = ⟨s.writeU16 .hl (s.readU16 .hl - 1#16), s.fallThrough 1, .decRr⟩ := rfl
@[simp] theorem actionOf_incL (s : State) :
    actionOf .incL s = ⟨s.writeAlu .l (aluInc8 (s.readU8 .l)), s.fallThrough 1, .incR⟩ := rfl
@[simp] theorem actionOf_decL (s : State) :
    actionOf .decL s = ⟨s.writeAlu .l (aluDec8 (s.readU8 .l)), s.fallThrough 1, .decR⟩ := rfl
@[simp] theorem actionOf_ldLD8 (n : Byte) (s : State) :
    actionOf (.ldLD8 n) s = ⟨s.writeU8 .l n, s.fallThrough 2, .ldRD8⟩ := rfl
@[simp] theorem actionOf_ldSpD16 (n : Word) (s : State) :
    actionOf (.ldSpD16 n) s = ⟨s.writeU16 .sp n, s.fallThrough 3, .ldRrD16⟩ := rfl
@[simp] theorem actionOf_incSp (s : State) :
    actionOf .incSp s = ⟨s.writeU16 .sp (s.readU16 .sp + 1#16), s.fallThrough 1, .incRr⟩ := rfl
@[simp] theorem actionOf_decSp (s : State) :
    actionOf .decSp s = ⟨s.writeU16 .sp (s.readU16 .sp - 1#16), s.fallThrough 1, .decRr⟩ := rfl
@[simp] theorem actionOf_incA (s : State) :
    actionOf .incA s = ⟨s.writeAlu .a (aluInc8 (s.readU8 .a)), s.fallThrough 1, .incR⟩ := rfl
@[simp] theorem actionOf_decA (s : State) :
    actionOf .decA s = ⟨s.writeAlu .a (aluDec8 (s.readU8 .a)), s.fallThrough 1, .decR⟩ := rfl
@[simp] theorem actionOf_ldAD8 (n : Byte) (s : State) :
    actionOf (.ldAD8 n) s = ⟨s.writeU8 .a n, s.fallThrough 2, .ldRD8⟩ := rfl
@[simp] theorem actionOf_ldIndHlB (s : State) :
    actionOf .ldIndHlB s = ⟨s.memWrite (s.storeAddress .hl) (s.readU8 .b), s.fallThrough 1, .ldIndHlR⟩ := rfl
@[simp] theorem actionOf_ldIndHlC (s : State) :
    actionOf .ldIndHlC s = ⟨s.memWrite (s.storeAddress .hl) (s.readU8 .c), s.fallThrough 1, .ldIndHlR⟩ := rfl
@[simp] theorem actionOf_ldIndHlD (s : State) :
    actionOf .ldIndHlD s = ⟨s.memWrite (s.storeAddress .hl) (s.readU8 .d), s.fallThrough 1, .ldIndHlR⟩ := rfl
@[simp] theorem actionOf_ldIndHlE (s : State) :
    actionOf .ldIndHlE s = ⟨s.memWrite (s.storeAddress .hl) (s.readU8 .e), s.fallThrough 1, .ldIndHlR⟩ := rfl
@[simp] theorem actionOf_ldIndHlH (s : State) :
    actionOf .ldIndHlH s = ⟨s.memWrite (s.storeAddress .hl) (s.readU8 .h), s.fallThrough 1, .ldIndHlR⟩ := rfl
@[simp] theorem actionOf_ldIndHlL (s : State) :
    actionOf .ldIndHlL s = ⟨s.memWrite (s.storeAddress .hl) (s.readU8 .l), s.fallThrough 1, .ldIndHlR⟩ := rfl
@[simp] theorem actionOf_halt (s : State) :
    actionOf .halt s = ⟨{s with status := .halted s.pc}, s.fallThrough 1, .halt⟩ := rfl
@[simp] theorem actionOf_ldIndHlA (s : State) :
    actionOf .ldIndHlA s = ⟨s.memWrite (s.storeAddress .hl) (s.readU8 .a), s.fallThrough 1, .ldIndHlR⟩ := rfl
@[simp] theorem actionOf_jpNzA16 (n : Word) (s : State) :
    actionOf (.jpNzA16 n) s =
      if s.cond .nz then ⟨s, jumpTarget n, .jpCcTaken⟩ else ⟨s, s.fallThrough 3, .jpCcNotTaken⟩ := rfl
@[simp] theorem actionOf_jpA16 (n : Word) (s : State) : actionOf (.jpA16 n) s = ⟨s, jumpTarget n, .jpA16⟩ := rfl
@[simp] theorem actionOf_jpZA16 (n : Word) (s : State) :
    actionOf (.jpZA16 n) s =
      if s.cond .z then ⟨s, jumpTarget n, .jpCcTaken⟩ else ⟨s, s.fallThrough 3, .jpCcNotTaken⟩ := rfl
@[simp] theorem actionOf_jpNcA16 (n : Word) (s : State) :
    actionOf (.jpNcA16 n) s =
      if s.cond .nc then ⟨s, jumpTarget n, .jpCcTaken⟩ else ⟨s, s.fallThrough 3, .jpCcNotTaken⟩ := rfl
@[simp] theorem actionOf_jpCA16 (n : Word) (s : State) :
    actionOf (.jpCA16 n) s =
      if s.cond .c then ⟨s, jumpTarget n, .jpCcTaken⟩ else ⟨s, s.fallThrough 3, .jpCcNotTaken⟩ := rfl
@[simp] theorem actionOf_rrcB (s : State) : actionOf .rrcB s = ⟨s.rotatedRight .b, s.fallThrough 2, .rrcR⟩ := rfl
@[simp] theorem actionOf_rrcC (s : State) : actionOf .rrcC s = ⟨s.rotatedRight .c, s.fallThrough 2, .rrcR⟩ := rfl
@[simp] theorem actionOf_rrcD (s : State) : actionOf .rrcD s = ⟨s.rotatedRight .d, s.fallThrough 2, .rrcR⟩ := rfl
@[simp] theorem actionOf_rrcE (s : State) : actionOf .rrcE s = ⟨s.rotatedRight .e, s.fallThrough 2, .rrcR⟩ := rfl
@[simp] theorem actionOf_rrcH (s : State) : actionOf .rrcH s = ⟨s.rotatedRight .h, s.fallThrough 2, .rrcR⟩ := rfl
@[simp] theorem actionOf_rrcL (s : State) : actionOf .rrcL s = ⟨s.rotatedRight .l, s.fallThrough 2, .rrcR⟩ := rfl
@[simp] theorem actionOf_rrcA (s : State) : actionOf .rrcA s = ⟨s.rotatedRight .a, s.fallThrough 2, .rrcR⟩ := rfl
@[simp] theorem actionOf_srlB (s : State) : actionOf .srlB s = ⟨s.shiftedRight .b, s.fallThrough 2, .srlR⟩ := rfl
@[simp] theorem actionOf_srlC (s : State) : actionOf .srlC s = ⟨s.shiftedRight .c, s.fallThrough 2, .srlR⟩ := rfl
@[simp] theorem actionOf_srlD (s : State) : actionOf .srlD s = ⟨s.shiftedRight .d, s.fallThrough 2, .srlR⟩ := rfl
@[simp] theorem actionOf_srlE (s : State) : actionOf .srlE s = ⟨s.shiftedRight .e, s.fallThrough 2, .srlR⟩ := rfl
@[simp] theorem actionOf_srlH (s : State) : actionOf .srlH s = ⟨s.shiftedRight .h, s.fallThrough 2, .srlR⟩ := rfl
@[simp] theorem actionOf_srlL (s : State) : actionOf .srlL s = ⟨s.shiftedRight .l, s.fallThrough 2, .srlR⟩ := rfl
@[simp] theorem actionOf_srlA (s : State) : actionOf .srlA s = ⟨s.shiftedRight .a, s.fallThrough 2, .srlR⟩ := rfl

/-! ## Execution -/

/-- Every meaning is the commit of its action. -/
theorem exec_eq_commit (i : Instr) (s : State) : exec i s = commit s (actionOf i s) := by
  cases i <;> rfl

/-- Everything an execution under a table that answers a next state can have done: a next-PC fault that discards the writes,
or the action's writes with the new PC and counter. -/
theorem execWith_next_cases {costs : CycleCost} {i : Instr} {s t : State} (h : execWith costs i s = .next t) :
    (Config.memSize ≤ (actionOf i s).nextPc.toNat ∧ t = (actionOf i s).offTheTop s) ∨
    ((actionOf i s).nextPc.toNat < Config.memSize ∧
      s.cycles.toNat + costs (actionOf i s).cost < Config.cycleLimit ∧ t = (actionOf i s).done costs s) :=
  commitWith_cases h

/-- The same under the default table. -/
theorem exec_next_cases {i : Instr} {s t : State} (h : exec i s = .next t) :
    (Config.memSize ≤ (actionOf i s).nextPc.toNat ∧ t = (actionOf i s).offTheTop s) ∨
    ((actionOf i s).nextPc.toNat < Config.memSize ∧
      s.cycles.toNat + Config.cycleCost (actionOf i s).cost < Config.cycleLimit ∧
      t = (actionOf i s).done Config.cycleCost s) := by
  rw [exec_eq_commit] at h
  exact commit_cases h

end Sys2Proof.Machine
end

