-- ==== Sys2Proof/Laws/Memory.lean ====
section
/-! SUPPORT. The laws of memory: read after write, the other cells, and that every memory operation keeps the canonical form. -/

namespace Sys2Proof.Machine

/-! ## Reading -/

@[simp] theorem Memory.read_nil (a : Nat) : Memory.read [] a = 0#8 := rfl

theorem Memory.read_erase (m : Memory) (a b : Nat) :
    Memory.read (Memory.erase m a) b = if b = a then 0#8 else Memory.read m b := by
  induction m with
  | nil => simp [Memory.erase]
  | cons c m ih =>
    obtain ⟨k, w⟩ := c
    by_cases hk : a = k
    · subst hk
      by_cases hb : b = a
      · rw [Memory.erase, if_pos rfl, ih, if_pos hb]
        exact (if_pos hb).symm
      · simp [Memory.erase, Memory.read, ih, hb]
    · by_cases hb : b = k
      · subst hb
        simp [Memory.erase, Memory.read, hk, Ne.symm hk]
      · simp [Memory.erase, Memory.read, hk, hb, ih]

theorem Memory.read_insert (m : Memory) (a b : Nat) (v : Byte)
    (ha : ∀ c ∈ m, c.1 ≠ a) :
    Memory.read (Memory.insert m a v) b = if b = a then v else Memory.read m b := by
  induction m with
  | nil => simp [Memory.insert, Memory.read]
  | cons c m ih =>
    obtain ⟨k, w⟩ := c
    have hk : k ≠ a := ha (k, w) (by simp)
    have ih := ih (fun c hc => ha c (by simp [hc]))
    by_cases hlt : a < k
    · simp [Memory.insert, Memory.read, hlt]
    · by_cases hb : b = k
      · subst hb
        simp [Memory.insert, Memory.read, hlt, hk]
      · simp [Memory.insert, Memory.read, hlt, hb, ih]

theorem Memory.erase_keys (m : Memory) (a : Nat) : ∀ c ∈ Memory.erase m a, c.1 ≠ a := by
  induction m with
  | nil => simp [Memory.erase]
  | cons c m ih =>
    obtain ⟨k, w⟩ := c
    by_cases hk : a = k
    · rw [Memory.erase, if_pos hk]
      exact ih
    · simp only [Memory.erase, hk, if_false, List.mem_cons]
      rintro c (rfl | hc)
      · exact Ne.symm hk
      · exact ih c hc

/-- The one spec lemma of `Memory.write`: the cell written reads as the value, every other cell as before (20_memory.md R42). -/
theorem Memory.read_write (m : Memory) (a b : Nat) (v : Byte) :
    Memory.read (Memory.write m a v) b = if b = a then v else Memory.read m b := by
  by_cases hv : v = 0#8
  · simp [Memory.write, hv, Memory.read_erase]
  · rw [Memory.write, if_neg hv, Memory.read_insert _ _ _ _ (Memory.erase_keys m a), Memory.read_erase]
    by_cases hb : b = a <;> simp [hb]

@[simp] theorem Memory.read_write_same (m : Memory) (a : Nat) (v : Byte) :
    Memory.read (Memory.write m a v) a = v := by simp [Memory.read_write]

theorem Memory.read_write_other (m : Memory) (a b : Nat) (v : Byte) (h : b ≠ a) :
    Memory.read (Memory.write m a v) b = Memory.read m b := by simp [Memory.read_write, h]

/-! ## The canonical form -/

theorem Memory.wfFrom_cons (lo b : Nat) (w : Byte) (m : Memory) :
    Memory.wfFrom lo ((b, w) :: m) = true ↔
      lo ≤ b ∧ b < Config.memSize ∧ w ≠ 0#8 ∧ Memory.wfFrom (b + 1) m = true := by
  simp [Memory.wfFrom, and_assoc]

theorem Memory.wfFrom_mono {lo lo' : Nat} (m : Memory) (h : lo' ≤ lo) (hm : Memory.wfFrom lo m = true) :
    Memory.wfFrom lo' m = true := by
  cases m with
  | nil => rfl
  | cons c m =>
    obtain ⟨b, w⟩ := c
    rw [Memory.wfFrom_cons] at hm ⊢
    exact ⟨h.trans hm.1, hm.2⟩

theorem Memory.wfFrom_erase (m : Memory) (a lo : Nat) (h : Memory.wfFrom lo m = true) :
    Memory.wfFrom lo (Memory.erase m a) = true := by
  induction m generalizing lo with
  | nil => rfl
  | cons c m ih =>
    obtain ⟨b, w⟩ := c
    rw [Memory.wfFrom_cons] at h
    by_cases hb : a = b
    · simpa [Memory.erase, hb] using Memory.wfFrom_mono _ (by omega) (hb ▸ ih (b + 1) h.2.2.2)
    · simpa [Memory.erase, hb, Memory.wfFrom_cons] using ⟨h.1, h.2.1, h.2.2.1, ih (b + 1) h.2.2.2⟩

theorem Memory.wfFrom_insert (m : Memory) (a lo : Nat) (v : Byte) (h : Memory.wfFrom lo m = true) (hlo : lo ≤ a)
    (ha : a < Config.memSize) (hv : v ≠ 0#8) (hm : ∀ c ∈ m, c.1 ≠ a) :
    Memory.wfFrom lo (Memory.insert m a v) = true := by
  induction m generalizing lo with
  | nil => simpa [Memory.insert, Memory.wfFrom_cons] using ⟨hlo, ha, hv, rfl⟩
  | cons c m ih =>
    obtain ⟨b, w⟩ := c
    rw [Memory.wfFrom_cons] at h
    have hb : b ≠ a := hm (b, w) (by simp)
    by_cases hlt : a < b
    · rw [Memory.insert, if_pos hlt, Memory.wfFrom_cons, Memory.wfFrom_cons]
      exact ⟨hlo, ha, hv, hlt, h.2⟩
    · simp only [Memory.insert, hlt, if_false, Memory.wfFrom_cons]
      exact ⟨h.1, h.2.1, h.2.2.1, ih (b + 1) h.2.2.2 (by omega) (fun c hc => hm c (by simp [hc]))⟩

/-- Writing a cell of the address space keeps the canonical form. -/
theorem Memory.wf_write (m : Memory) (a : Nat) (v : Byte) (h : Memory.wf m = true) (ha : a < Config.memSize) :
    Memory.wf (Memory.write m a v) = true := by
  by_cases hv : v = 0#8
  · rw [Memory.write, if_pos hv]
    exact Memory.wfFrom_erase m a 0 h
  · rw [Memory.write, if_neg hv]
    exact Memory.wfFrom_insert _ a 0 v (Memory.wfFrom_erase m a 0 h) (Nat.zero_le a) ha hv (Memory.erase_keys m a)

/-- Placing bytes keeps the canonical form. -/
theorem Memory.wf_writeBytes (bytes : List Byte) (m : Memory) (a : Nat) (h : Memory.wf m = true) :
    Memory.wf (Memory.writeBytes m a bytes) = true := by
  induction bytes generalizing m a with
  | nil => simpa [Memory.writeBytes] using h
  | cons v vs ih =>
    by_cases ha : a < Config.memSize
    · simpa [Memory.writeBytes, ha] using ih _ _ (Memory.wf_write m a v h ha)
    · simpa [Memory.writeBytes, ha] using h

/-! ## The image -/

theorem Memory.wfFrom_ofImage (image : List Byte) (a : Nat) (h : a + image.length ≤ Config.memSize) :
    Memory.wfFrom a (Memory.ofImage a image) = true := by
  induction image generalizing a with
  | nil => rfl
  | cons v vs ih =>
    have hlen : a + (vs.length + 1) ≤ Config.memSize := by simpa using h
    have ih := ih (a + 1) (by omega)
    by_cases hv : v = 0#8
    · simpa [Memory.ofImage, hv] using Memory.wfFrom_mono _ (Nat.le_succ a) ih
    · simp only [Memory.ofImage, hv, if_false, Memory.wfFrom_cons]
      exact ⟨le_refl a, by omega, hv, ih⟩

theorem Memory.read_ofImage_below (image : List Byte) (a b : Nat) (h : b < a) :
    Memory.read (Memory.ofImage a image) b = 0#8 := by
  induction image generalizing a with
  | nil => rfl
  | cons v vs ih =>
    by_cases hv : v = 0#8
    · simpa [Memory.ofImage, hv] using ih (a + 1) (by omega)
    · simpa [Memory.ofImage, hv, Memory.read, Nat.ne_of_lt h] using ih (a + 1) (by omega)

/-- The spec lemma of `Memory.ofImage`: image bytes from the origin on, 0x00 beyond them (10_state.md R33). -/
theorem Memory.read_ofImage (image : List Byte) (a k : Nat) :
    Memory.read (Memory.ofImage a image) (a + k) = image.getD k 0#8 := by
  induction image generalizing a k with
  | nil => simp [Memory.ofImage]
  | cons v vs ih =>
    cases k with
    | zero =>
      by_cases hv : v = 0#8
      · simpa [Memory.ofImage, hv] using Memory.read_ofImage_below vs (a + 1) a (by omega)
      · simp [Memory.ofImage, hv, Memory.read]
    | succ k =>
      have ih := ih (a + 1) k
      rw [show a + 1 + k = a + (k + 1) by omega] at ih
      by_cases hv : v = 0#8
      · simpa [Memory.ofImage, hv] using ih
      · simpa [Memory.ofImage, hv, Memory.read] using ih

end Sys2Proof.Machine
end

