-- ==== Sys2Proof/Laws/PerInstr.lean ====
section
/-! SUPPORT. What holds of every instruction as syntax, one lemma per constructor (spec/30_encoding.md R60, R61, R71). -/

/-- The encoding has the declared length; the declared length is one more than the operand length, or 2 behind the prefix byte;
the first byte is the prefix byte exactly in format `CB_OP`; and the instruction is well formed. -/
def Sys2Proof.Laws.Encoding.Statement (i : Sys2Proof.Instr) : Prop :=
  (Sys2Proof.encode i).length = i.length ∧
  i.length = (if i.format = .cbOp then 2 else 1 + i.format.operandBytes) ∧
  ((Sys2Proof.encode i).head? = some Sys2Proof.Config.cbPrefix ↔ i.format = .cbOp) ∧
  i.wellFormed = true

theorem Sys2Proof.Laws.Encoding.nop : Sys2Proof.Laws.Encoding.Statement .nop :=
  ⟨rfl, rfl, by simp [Sys2Proof.encode, Sys2Proof.Instr.format, Sys2Proof.Config.cbPrefix], rfl⟩

theorem Sys2Proof.Laws.Encoding.ldBcD16 (imm16 : Sys2Proof.Word) : Sys2Proof.Laws.Encoding.Statement (.ldBcD16 imm16) :=
  ⟨rfl, rfl, by simp [Sys2Proof.encode, Sys2Proof.Instr.format, Sys2Proof.Config.cbPrefix], rfl⟩

theorem Sys2Proof.Laws.Encoding.ldIndBcA : Sys2Proof.Laws.Encoding.Statement .ldIndBcA :=
  ⟨rfl, rfl, by simp [Sys2Proof.encode, Sys2Proof.Instr.format, Sys2Proof.Config.cbPrefix], rfl⟩

theorem Sys2Proof.Laws.Encoding.incBc : Sys2Proof.Laws.Encoding.Statement .incBc :=
  ⟨rfl, rfl, by simp [Sys2Proof.encode, Sys2Proof.Instr.format, Sys2Proof.Config.cbPrefix], rfl⟩

theorem Sys2Proof.Laws.Encoding.incB : Sys2Proof.Laws.Encoding.Statement .incB :=
  ⟨rfl, rfl, by simp [Sys2Proof.encode, Sys2Proof.Instr.format, Sys2Proof.Config.cbPrefix], rfl⟩

theorem Sys2Proof.Laws.Encoding.decB : Sys2Proof.Laws.Encoding.Statement .decB :=
  ⟨rfl, rfl, by simp [Sys2Proof.encode, Sys2Proof.Instr.format, Sys2Proof.Config.cbPrefix], rfl⟩

theorem Sys2Proof.Laws.Encoding.ldBD8 (imm8 : Sys2Proof.Byte) : Sys2Proof.Laws.Encoding.Statement (.ldBD8 imm8) :=
  ⟨rfl, rfl, by simp [Sys2Proof.encode, Sys2Proof.Instr.format, Sys2Proof.Config.cbPrefix], rfl⟩

theorem Sys2Proof.Laws.Encoding.decBc : Sys2Proof.Laws.Encoding.Statement .decBc :=
  ⟨rfl, rfl, by simp [Sys2Proof.encode, Sys2Proof.Instr.format, Sys2Proof.Config.cbPrefix], rfl⟩

theorem Sys2Proof.Laws.Encoding.incC : Sys2Proof.Laws.Encoding.Statement .incC :=
  ⟨rfl, rfl, by simp [Sys2Proof.encode, Sys2Proof.Instr.format, Sys2Proof.Config.cbPrefix], rfl⟩

theorem Sys2Proof.Laws.Encoding.decC : Sys2Proof.Laws.Encoding.Statement .decC :=
  ⟨rfl, rfl, by simp [Sys2Proof.encode, Sys2Proof.Instr.format, Sys2Proof.Config.cbPrefix], rfl⟩

theorem Sys2Proof.Laws.Encoding.ldCD8 (imm8 : Sys2Proof.Byte) : Sys2Proof.Laws.Encoding.Statement (.ldCD8 imm8) :=
  ⟨rfl, rfl, by simp [Sys2Proof.encode, Sys2Proof.Instr.format, Sys2Proof.Config.cbPrefix], rfl⟩

theorem Sys2Proof.Laws.Encoding.rrca : Sys2Proof.Laws.Encoding.Statement .rrca :=
  ⟨rfl, rfl, by simp [Sys2Proof.encode, Sys2Proof.Instr.format, Sys2Proof.Config.cbPrefix], rfl⟩

theorem Sys2Proof.Laws.Encoding.ldDeD16 (imm16 : Sys2Proof.Word) : Sys2Proof.Laws.Encoding.Statement (.ldDeD16 imm16) :=
  ⟨rfl, rfl, by simp [Sys2Proof.encode, Sys2Proof.Instr.format, Sys2Proof.Config.cbPrefix], rfl⟩

theorem Sys2Proof.Laws.Encoding.ldIndDeA : Sys2Proof.Laws.Encoding.Statement .ldIndDeA :=
  ⟨rfl, rfl, by simp [Sys2Proof.encode, Sys2Proof.Instr.format, Sys2Proof.Config.cbPrefix], rfl⟩

theorem Sys2Proof.Laws.Encoding.incDe : Sys2Proof.Laws.Encoding.Statement .incDe :=
  ⟨rfl, rfl, by simp [Sys2Proof.encode, Sys2Proof.Instr.format, Sys2Proof.Config.cbPrefix], rfl⟩

theorem Sys2Proof.Laws.Encoding.incD : Sys2Proof.Laws.Encoding.Statement .incD :=
  ⟨rfl, rfl, by simp [Sys2Proof.encode, Sys2Proof.Instr.format, Sys2Proof.Config.cbPrefix], rfl⟩

theorem Sys2Proof.Laws.Encoding.decD : Sys2Proof.Laws.Encoding.Statement .decD :=
  ⟨rfl, rfl, by simp [Sys2Proof.encode, Sys2Proof.Instr.format, Sys2Proof.Config.cbPrefix], rfl⟩

theorem Sys2Proof.Laws.Encoding.ldDD8 (imm8 : Sys2Proof.Byte) : Sys2Proof.Laws.Encoding.Statement (.ldDD8 imm8) :=
  ⟨rfl, rfl, by simp [Sys2Proof.encode, Sys2Proof.Instr.format, Sys2Proof.Config.cbPrefix], rfl⟩

theorem Sys2Proof.Laws.Encoding.decDe : Sys2Proof.Laws.Encoding.Statement .decDe :=
  ⟨rfl, rfl, by simp [Sys2Proof.encode, Sys2Proof.Instr.format, Sys2Proof.Config.cbPrefix], rfl⟩

theorem Sys2Proof.Laws.Encoding.incE : Sys2Proof.Laws.Encoding.Statement .incE :=
  ⟨rfl, rfl, by simp [Sys2Proof.encode, Sys2Proof.Instr.format, Sys2Proof.Config.cbPrefix], rfl⟩

theorem Sys2Proof.Laws.Encoding.decE : Sys2Proof.Laws.Encoding.Statement .decE :=
  ⟨rfl, rfl, by simp [Sys2Proof.encode, Sys2Proof.Instr.format, Sys2Proof.Config.cbPrefix], rfl⟩

theorem Sys2Proof.Laws.Encoding.ldED8 (imm8 : Sys2Proof.Byte) : Sys2Proof.Laws.Encoding.Statement (.ldED8 imm8) :=
  ⟨rfl, rfl, by simp [Sys2Proof.encode, Sys2Proof.Instr.format, Sys2Proof.Config.cbPrefix], rfl⟩

theorem Sys2Proof.Laws.Encoding.ldHlD16 (imm16 : Sys2Proof.Word) : Sys2Proof.Laws.Encoding.Statement (.ldHlD16 imm16) :=
  ⟨rfl, rfl, by simp [Sys2Proof.encode, Sys2Proof.Instr.format, Sys2Proof.Config.cbPrefix], rfl⟩

theorem Sys2Proof.Laws.Encoding.incHl : Sys2Proof.Laws.Encoding.Statement .incHl :=
  ⟨rfl, rfl, by simp [Sys2Proof.encode, Sys2Proof.Instr.format, Sys2Proof.Config.cbPrefix], rfl⟩

theorem Sys2Proof.Laws.Encoding.incH : Sys2Proof.Laws.Encoding.Statement .incH :=
  ⟨rfl, rfl, by simp [Sys2Proof.encode, Sys2Proof.Instr.format, Sys2Proof.Config.cbPrefix], rfl⟩

theorem Sys2Proof.Laws.Encoding.decH : Sys2Proof.Laws.Encoding.Statement .decH :=
  ⟨rfl, rfl, by simp [Sys2Proof.encode, Sys2Proof.Instr.format, Sys2Proof.Config.cbPrefix], rfl⟩

theorem Sys2Proof.Laws.Encoding.ldHD8 (imm8 : Sys2Proof.Byte) : Sys2Proof.Laws.Encoding.Statement (.ldHD8 imm8) :=
  ⟨rfl, rfl, by simp [Sys2Proof.encode, Sys2Proof.Instr.format, Sys2Proof.Config.cbPrefix], rfl⟩

theorem Sys2Proof.Laws.Encoding.decHl : Sys2Proof.Laws.Encoding.Statement .decHl :=
  ⟨rfl, rfl, by simp [Sys2Proof.encode, Sys2Proof.Instr.format, Sys2Proof.Config.cbPrefix], rfl⟩

theorem Sys2Proof.Laws.Encoding.incL : Sys2Proof.Laws.Encoding.Statement .incL :=
  ⟨rfl, rfl, by simp [Sys2Proof.encode, Sys2Proof.Instr.format, Sys2Proof.Config.cbPrefix], rfl⟩

theorem Sys2Proof.Laws.Encoding.decL : Sys2Proof.Laws.Encoding.Statement .decL :=
  ⟨rfl, rfl, by simp [Sys2Proof.encode, Sys2Proof.Instr.format, Sys2Proof.Config.cbPrefix], rfl⟩

theorem Sys2Proof.Laws.Encoding.ldLD8 (imm8 : Sys2Proof.Byte) : Sys2Proof.Laws.Encoding.Statement (.ldLD8 imm8) :=
  ⟨rfl, rfl, by simp [Sys2Proof.encode, Sys2Proof.Instr.format, Sys2Proof.Config.cbPrefix], rfl⟩

theorem Sys2Proof.Laws.Encoding.ldSpD16 (imm16 : Sys2Proof.Word) : Sys2Proof.Laws.Encoding.Statement (.ldSpD16 imm16) :=
  ⟨rfl, rfl, by simp [Sys2Proof.encode, Sys2Proof.Instr.format, Sys2Proof.Config.cbPrefix], rfl⟩

theorem Sys2Proof.Laws.Encoding.incSp : Sys2Proof.Laws.Encoding.Statement .incSp :=
  ⟨rfl, rfl, by simp [Sys2Proof.encode, Sys2Proof.Instr.format, Sys2Proof.Config.cbPrefix], rfl⟩

theorem Sys2Proof.Laws.Encoding.decSp : Sys2Proof.Laws.Encoding.Statement .decSp :=
  ⟨rfl, rfl, by simp [Sys2Proof.encode, Sys2Proof.Instr.format, Sys2Proof.Config.cbPrefix], rfl⟩

theorem Sys2Proof.Laws.Encoding.incA : Sys2Proof.Laws.Encoding.Statement .incA :=
  ⟨rfl, rfl, by simp [Sys2Proof.encode, Sys2Proof.Instr.format, Sys2Proof.Config.cbPrefix], rfl⟩

theorem Sys2Proof.Laws.Encoding.decA : Sys2Proof.Laws.Encoding.Statement .decA :=
  ⟨rfl, rfl, by simp [Sys2Proof.encode, Sys2Proof.Instr.format, Sys2Proof.Config.cbPrefix], rfl⟩

theorem Sys2Proof.Laws.Encoding.ldAD8 (imm8 : Sys2Proof.Byte) : Sys2Proof.Laws.Encoding.Statement (.ldAD8 imm8) :=
  ⟨rfl, rfl, by simp [Sys2Proof.encode, Sys2Proof.Instr.format, Sys2Proof.Config.cbPrefix], rfl⟩

theorem Sys2Proof.Laws.Encoding.ldIndHlB : Sys2Proof.Laws.Encoding.Statement .ldIndHlB :=
  ⟨rfl, rfl, by simp [Sys2Proof.encode, Sys2Proof.Instr.format, Sys2Proof.Config.cbPrefix], rfl⟩

theorem Sys2Proof.Laws.Encoding.ldIndHlC : Sys2Proof.Laws.Encoding.Statement .ldIndHlC :=
  ⟨rfl, rfl, by simp [Sys2Proof.encode, Sys2Proof.Instr.format, Sys2Proof.Config.cbPrefix], rfl⟩

theorem Sys2Proof.Laws.Encoding.ldIndHlD : Sys2Proof.Laws.Encoding.Statement .ldIndHlD :=
  ⟨rfl, rfl, by simp [Sys2Proof.encode, Sys2Proof.Instr.format, Sys2Proof.Config.cbPrefix], rfl⟩

theorem Sys2Proof.Laws.Encoding.ldIndHlE : Sys2Proof.Laws.Encoding.Statement .ldIndHlE :=
  ⟨rfl, rfl, by simp [Sys2Proof.encode, Sys2Proof.Instr.format, Sys2Proof.Config.cbPrefix], rfl⟩

theorem Sys2Proof.Laws.Encoding.ldIndHlH : Sys2Proof.Laws.Encoding.Statement .ldIndHlH :=
  ⟨rfl, rfl, by simp [Sys2Proof.encode, Sys2Proof.Instr.format, Sys2Proof.Config.cbPrefix], rfl⟩

theorem Sys2Proof.Laws.Encoding.ldIndHlL : Sys2Proof.Laws.Encoding.Statement .ldIndHlL :=
  ⟨rfl, rfl, by simp [Sys2Proof.encode, Sys2Proof.Instr.format, Sys2Proof.Config.cbPrefix], rfl⟩

theorem Sys2Proof.Laws.Encoding.halt : Sys2Proof.Laws.Encoding.Statement .halt :=
  ⟨rfl, rfl, by simp [Sys2Proof.encode, Sys2Proof.Instr.format, Sys2Proof.Config.cbPrefix], rfl⟩

theorem Sys2Proof.Laws.Encoding.ldIndHlA : Sys2Proof.Laws.Encoding.Statement .ldIndHlA :=
  ⟨rfl, rfl, by simp [Sys2Proof.encode, Sys2Proof.Instr.format, Sys2Proof.Config.cbPrefix], rfl⟩

theorem Sys2Proof.Laws.Encoding.jpNzA16 (imm16 : Sys2Proof.Word) : Sys2Proof.Laws.Encoding.Statement (.jpNzA16 imm16) :=
  ⟨rfl, rfl, by simp [Sys2Proof.encode, Sys2Proof.Instr.format, Sys2Proof.Config.cbPrefix], rfl⟩

theorem Sys2Proof.Laws.Encoding.jpA16 (imm16 : Sys2Proof.Word) : Sys2Proof.Laws.Encoding.Statement (.jpA16 imm16) :=
  ⟨rfl, rfl, by simp [Sys2Proof.encode, Sys2Proof.Instr.format, Sys2Proof.Config.cbPrefix], rfl⟩

theorem Sys2Proof.Laws.Encoding.jpZA16 (imm16 : Sys2Proof.Word) : Sys2Proof.Laws.Encoding.Statement (.jpZA16 imm16) :=
  ⟨rfl, rfl, by simp [Sys2Proof.encode, Sys2Proof.Instr.format, Sys2Proof.Config.cbPrefix], rfl⟩

theorem Sys2Proof.Laws.Encoding.jpNcA16 (imm16 : Sys2Proof.Word) : Sys2Proof.Laws.Encoding.Statement (.jpNcA16 imm16) :=
  ⟨rfl, rfl, by simp [Sys2Proof.encode, Sys2Proof.Instr.format, Sys2Proof.Config.cbPrefix], rfl⟩

theorem Sys2Proof.Laws.Encoding.jpCA16 (imm16 : Sys2Proof.Word) : Sys2Proof.Laws.Encoding.Statement (.jpCA16 imm16) :=
  ⟨rfl, rfl, by simp [Sys2Proof.encode, Sys2Proof.Instr.format, Sys2Proof.Config.cbPrefix], rfl⟩

theorem Sys2Proof.Laws.Encoding.rrcB : Sys2Proof.Laws.Encoding.Statement .rrcB :=
  ⟨rfl, rfl, by simp [Sys2Proof.encode, Sys2Proof.Instr.format, Sys2Proof.Config.cbPrefix], rfl⟩

theorem Sys2Proof.Laws.Encoding.rrcC : Sys2Proof.Laws.Encoding.Statement .rrcC :=
  ⟨rfl, rfl, by simp [Sys2Proof.encode, Sys2Proof.Instr.format, Sys2Proof.Config.cbPrefix], rfl⟩

theorem Sys2Proof.Laws.Encoding.rrcD : Sys2Proof.Laws.Encoding.Statement .rrcD :=
  ⟨rfl, rfl, by simp [Sys2Proof.encode, Sys2Proof.Instr.format, Sys2Proof.Config.cbPrefix], rfl⟩

theorem Sys2Proof.Laws.Encoding.rrcE : Sys2Proof.Laws.Encoding.Statement .rrcE :=
  ⟨rfl, rfl, by simp [Sys2Proof.encode, Sys2Proof.Instr.format, Sys2Proof.Config.cbPrefix], rfl⟩

theorem Sys2Proof.Laws.Encoding.rrcH : Sys2Proof.Laws.Encoding.Statement .rrcH :=
  ⟨rfl, rfl, by simp [Sys2Proof.encode, Sys2Proof.Instr.format, Sys2Proof.Config.cbPrefix], rfl⟩

theorem Sys2Proof.Laws.Encoding.rrcL : Sys2Proof.Laws.Encoding.Statement .rrcL :=
  ⟨rfl, rfl, by simp [Sys2Proof.encode, Sys2Proof.Instr.format, Sys2Proof.Config.cbPrefix], rfl⟩

theorem Sys2Proof.Laws.Encoding.rrcA : Sys2Proof.Laws.Encoding.Statement .rrcA :=
  ⟨rfl, rfl, by simp [Sys2Proof.encode, Sys2Proof.Instr.format, Sys2Proof.Config.cbPrefix], rfl⟩

theorem Sys2Proof.Laws.Encoding.srlB : Sys2Proof.Laws.Encoding.Statement .srlB :=
  ⟨rfl, rfl, by simp [Sys2Proof.encode, Sys2Proof.Instr.format, Sys2Proof.Config.cbPrefix], rfl⟩

theorem Sys2Proof.Laws.Encoding.srlC : Sys2Proof.Laws.Encoding.Statement .srlC :=
  ⟨rfl, rfl, by simp [Sys2Proof.encode, Sys2Proof.Instr.format, Sys2Proof.Config.cbPrefix], rfl⟩

theorem Sys2Proof.Laws.Encoding.srlD : Sys2Proof.Laws.Encoding.Statement .srlD :=
  ⟨rfl, rfl, by simp [Sys2Proof.encode, Sys2Proof.Instr.format, Sys2Proof.Config.cbPrefix], rfl⟩

theorem Sys2Proof.Laws.Encoding.srlE : Sys2Proof.Laws.Encoding.Statement .srlE :=
  ⟨rfl, rfl, by simp [Sys2Proof.encode, Sys2Proof.Instr.format, Sys2Proof.Config.cbPrefix], rfl⟩

theorem Sys2Proof.Laws.Encoding.srlH : Sys2Proof.Laws.Encoding.Statement .srlH :=
  ⟨rfl, rfl, by simp [Sys2Proof.encode, Sys2Proof.Instr.format, Sys2Proof.Config.cbPrefix], rfl⟩

theorem Sys2Proof.Laws.Encoding.srlL : Sys2Proof.Laws.Encoding.Statement .srlL :=
  ⟨rfl, rfl, by simp [Sys2Proof.encode, Sys2Proof.Instr.format, Sys2Proof.Config.cbPrefix], rfl⟩

theorem Sys2Proof.Laws.Encoding.srlA : Sys2Proof.Laws.Encoding.Statement .srlA :=
  ⟨rfl, rfl, by simp [Sys2Proof.encode, Sys2Proof.Instr.format, Sys2Proof.Config.cbPrefix], rfl⟩
end

