-- ==== Sys2Proof/Laws/Run.lean ====
section
/-! SUPPORT. The run loop one step at a time (spec/70_reset_and_hazards.md R257), under any table. -/

namespace Sys2Proof.Machine

@[simp] theorem runUsing_zero (next : State → Host.Outcome State Fault Refusal) (s : State) :
    runUsing next 0 s = .next s := rfl

/-- A loop that has fuel and takes a step goes on from the state the step answers. -/
theorem runUsing_succ {next : State → Host.Outcome State Fault Refusal} {s t : State} (fuel : Nat)
    (h : s.status = .running) (hs : next s = .next t) : runUsing next (fuel + 1) s = runUsing next fuel t := by
  simp only [runUsing, if_pos h, hs]

@[simp] theorem run_eq (fuel : Nat) (s : State) : run fuel s = runUsing step fuel s := rfl

@[simp] theorem runWith_eq (costs : CycleCost) (fuel : Nat) (s : State) :
    runWith costs fuel s = runUsing (stepWith costs) fuel s := rfl

end Sys2Proof.Machine
end

