-- ==== Sys2Proof/Laws/Step.lean ====
section
/-! SUPPORT. What fetch and step can do, said once (spec/30_encoding.md R78). -/

namespace Sys2Proof.Machine

/-- `MemRead` below and past the top of memory (20_memory.md R41). -/
theorem State.memRead_fallThrough (s : State) (k : Nat) (h : k ≤ 3) :
    s.memRead (s.fallThrough k) =
      if s.pc.toNat + k < Config.memSize then some (s.mem.read (s.pc.toNat + k)) else none := by
  simp [State.memRead, State.fallThrough_toNat s k h]

/-- The bytes fetched, by how close PC is to the top of memory. -/
theorem State.fetchBytes_eq (s : State) :
    s.fetchBytes =
      if s.pc.toNat + 2 < Config.memSize then
        [s.mem.read s.pc.toNat, s.mem.read (s.pc.toNat + 1), s.mem.read (s.pc.toNat + 2)]
      else if s.pc.toNat + 1 < Config.memSize then [s.mem.read s.pc.toNat, s.mem.read (s.pc.toNat + 1)]
      else [s.mem.read s.pc.toNat] := by
  have hlt : s.pc.toNat < Config.memSize := s.pc.isLt
  simp only [State.fetchBytes, List.filterMap_cons, List.filterMap_nil, s.memRead_fallThrough 0 (by omega),
    s.memRead_fallThrough 1 (by omega), s.memRead_fallThrough 2 (by omega), Nat.add_zero, if_pos hlt]
  by_cases h1 : s.pc.toNat + 1 < Config.memSize <;> by_cases h2 : s.pc.toNat + 2 < Config.memSize <;>
    simp [h1, h2]
  omega

/-- A step of a Running engine: the fetched instruction executes, or the fault of the fetch is raised. -/
theorem stepUsing_running {execute : Instr → State → Host.Outcome State Fault Refusal} {s : State}
    (h : s.status = .running) :
    stepUsing execute s =
      match s.fetch with
      | .ok i => execute i s
      | .error info => .next (s.raise info) := by
  cases hf : s.fetch <;> simp only [stepUsing, h, hf]

/-- Everything a step that answers a next state can have done. -/
theorem stepUsing_cases {execute : Instr → State → Host.Outcome State Fault Refusal} {s t : State}
    (h : stepUsing execute s = .next t) :
    s.status = .running ∧
      ((∃ i, s.fetch = .ok i ∧ execute i s = .next t) ∨ (∃ info, s.fetch = .error info ∧ t = s.raise info)) := by
  cases hs : s.status with
  | running =>
    rw [stepUsing_running hs] at h
    refine ⟨rfl, ?_⟩
    cases hf : s.fetch with
    | ok i => exact .inl ⟨i, rfl, by simpa [hf] using h⟩
    | error info => exact .inr ⟨info, rfl, by simpa [hf, eq_comm] using h⟩
  | halted addr => simp [stepUsing, hs] at h
  | faulted info => simp [stepUsing, hs] at h

theorem step_running {s : State} (h : s.status = .running) :
    step s =
      match s.fetch with
      | .ok i => exec i s
      | .error info => .next (s.raise info) := by
  cases hf : s.fetch <;> simp only [step, stepUsing, h, hf]

theorem step_cases {s t : State} (h : step s = .next t) :
    s.status = .running ∧
      ((∃ i, s.fetch = .ok i ∧ exec i s = .next t) ∨ (∃ info, s.fetch = .error info ∧ t = s.raise info)) :=
  stepUsing_cases h

theorem stepWith_cases {costs : CycleCost} {s t : State} (h : stepWith costs s = .next t) :
    s.status = .running ∧
      ((∃ i, s.fetch = .ok i ∧ execWith costs i s = .next t) ∨ (∃ info, s.fetch = .error info ∧ t = s.raise info)) :=
  stepUsing_cases h

/-- Everything a fetch can answer. -/
theorem State.fetch_cases (s : State) :
    (∃ i rest, decode s.fetchBytes = .ok i rest ∧ s.fetch = .ok i) ∨
    (∃ byte subop, decode s.fetchBytes = .unknownOpcode byte subop ∧
      s.fetch = .error (.unknownOpcode s.pc byte subop)) ∨
    (∃ offset, decode s.fetchBytes = .missingByte offset ∧
      s.fetch = .error (.outOfRange s.pc s.opcodeByte .operandRead (s.fallThrough offset))) := by
  unfold State.fetch
  cases decode s.fetchBytes with
  | ok i rest => exact .inl ⟨i, rest, rfl, rfl⟩
  | unknownOpcode byte subop => exact .inr (.inl ⟨byte, subop, rfl, rfl⟩)
  | missingByte offset => exact .inr (.inr ⟨offset, rfl, rfl⟩)

end Sys2Proof.Machine
end

