-- ==== Sys2Proof/Tests/Slice0.lean ====
section
/-! SUPPORT. The model's own tests: well-formedness, decoding of words written bit by bit from spec/opcode_table.json, single
steps whose expected results are rows of spec/95_test_vectors.md section 2, and a witness for the hypotheses of each
statement. -/

namespace Sys2Proof.Tests

open Sys2Proof.Machine Sys2Proof.Claims

/-- The reset state with PC and the bytes from there on as given. -/
def start (pc : Word) (bytes : List Byte) : State :=
  { State.reset with pc := pc, mem := Memory.ofImage pc.toNat bytes }

/-- Whether a step from `s` answers the next state `t`. -/
def stepsTo (s t : State) : Bool :=
  match step s with
  | .next u => u == t
  | .fault _ => false
  | .refused _ => false

/-- The largest counter that has room for a cost. -/
def almostFull (cost : Nat) : BitVec 64 := BitVec.ofNat 64 (2 ^ 64 - 1 - cost)

/-! ## Well-formedness: an ill-formed term for each check -/

/-- An image of 65,537 bytes (S4b). -/
theorem test_image_too_long : imageLengthOk 65537 = false ∧ imageLengthOk 65536 = true ∧ imageLengthOk 0 = true := by decide

/-- A cost table whose `NOP` is not the minimum (70_reset_and_hazards.md R262). -/
theorem test_cost_table_refused : CycleCost.wellFormed (fun e => if e = .halt then 3 else 4) = false := by decide

theorem test_cost_table_accepted : CycleCost.wellFormed (fun _ => 0) = true := by decide

/-- `Instr` has no ill-formed term: no operand field has an illegal value. -/
theorem test_instr_wellFormed : (Instr.jpA16 0xFFFF#16).wellFormed = true ∧ (Instr.ldAD8 0xFF#8).wellFormed = true := by decide

/-! ## Decoding -/

/-- R100, from the bit patterns of spec/opcode_table.json. -/
theorem test_decode_nop :
    [
    [0b00000000#8]].map decode =
    [
    .ok .nop []] := by decide

/-- R105, from the bit patterns of spec/opcode_table.json. -/
theorem test_decode_ld_imm16 :
    [
    [0b00000001#8, 0b00110100#8, 0b00010010#8], [0b00010001#8, 0b00110100#8, 0b00010010#8],
    [0b00100001#8, 0b00110100#8, 0b00010010#8], [0b00110001#8, 0b00110100#8, 0b00010010#8]].map decode =
    [
    .ok (.ldBcD16 0b0001001000110100#16) [], .ok (.ldDeD16 0b0001001000110100#16) [],
    .ok (.ldHlD16 0b0001001000110100#16) [], .ok (.ldSpD16 0b0001001000110100#16) []] := by decide

/-- R110, from the bit patterns of spec/opcode_table.json. -/
theorem test_decode_store_a :
    [
    [0b00000010#8], [0b00010010#8]].map decode =
    [
    .ok .ldIndBcA [], .ok .ldIndDeA []] := by decide

/-- R115, from the bit patterns of spec/opcode_table.json. -/
theorem test_decode_inc16 :
    [
    [0b00000011#8], [0b00010011#8], [0b00100011#8], [0b00110011#8]].map decode =
    [
    .ok .incBc [], .ok .incDe [], .ok .incHl [], .ok .incSp []] := by decide

/-- R120, from the bit patterns of spec/opcode_table.json. -/
theorem test_decode_inc8 :
    [
    [0b00000100#8], [0b00001100#8], [0b00010100#8], [0b00011100#8], [0b00100100#8], [0b00101100#8], [0b00111100#8]].map decode =
    [
    .ok .incB [], .ok .incC [], .ok .incD [], .ok .incE [], .ok .incH [], .ok .incL [], .ok .incA []] := by decide

/-- R121, from the bit patterns of spec/opcode_table.json. -/
theorem test_decode_dec8 :
    [
    [0b00000101#8], [0b00001101#8], [0b00010101#8], [0b00011101#8], [0b00100101#8], [0b00101101#8], [0b00111101#8]].map decode =
    [
    .ok .decB [], .ok .decC [], .ok .decD [], .ok .decE [], .ok .decH [], .ok .decL [], .ok .decA []] := by decide

/-- R125, from the bit patterns of spec/opcode_table.json. -/
theorem test_decode_ld_imm8 :
    [
    [0b00000110#8, 0b10100101#8], [0b00001110#8, 0b10100101#8], [0b00010110#8, 0b10100101#8],
    [0b00011110#8, 0b10100101#8], [0b00100110#8, 0b10100101#8], [0b00101110#8, 0b10100101#8],
    [0b00111110#8, 0b10100101#8]].map decode =
    [
    .ok (.ldBD8 0b10100101#8) [], .ok (.ldCD8 0b10100101#8) [], .ok (.ldDD8 0b10100101#8) [],
    .ok (.ldED8 0b10100101#8) [], .ok (.ldHD8 0b10100101#8) [], .ok (.ldLD8 0b10100101#8) [],
    .ok (.ldAD8 0b10100101#8) []] := by decide

/-- R116, from the bit patterns of spec/opcode_table.json. -/
theorem test_decode_dec16 :
    [
    [0b00001011#8], [0b00011011#8], [0b00101011#8], [0b00111011#8]].map decode =
    [
    .ok .decBc [], .ok .decDe [], .ok .decHl [], .ok .decSp []] := by decide

/-- R130, from the bit patterns of spec/opcode_table.json. -/
theorem test_decode_rrca :
    [
    [0b00001111#8]].map decode =
    [
    .ok .rrca []] := by decide

/-- R111, from the bit patterns of spec/opcode_table.json. -/
theorem test_decode_store_r :
    [
    [0b01110000#8], [0b01110001#8], [0b01110010#8], [0b01110011#8], [0b01110100#8], [0b01110101#8], [0b01110111#8]].map decode =
    [
    .ok .ldIndHlB [], .ok .ldIndHlC [], .ok .ldIndHlD [], .ok .ldIndHlE [], .ok .ldIndHlH [], .ok .ldIndHlL [],
    .ok .ldIndHlA []] := by decide

/-- R140, from the bit patterns of spec/opcode_table.json. -/
theorem test_decode_halt :
    [
    [0b01110110#8]].map decode =
    [
    .ok .halt []] := by decide

/-- R136, from the bit patterns of spec/opcode_table.json. -/
theorem test_decode_jp_cc :
    [
    [0b11000010#8, 0b00110100#8, 0b00010010#8], [0b11001010#8, 0b00110100#8, 0b00010010#8],
    [0b11010010#8, 0b00110100#8, 0b00010010#8], [0b11011010#8, 0b00110100#8, 0b00010010#8]].map decode =
    [
    .ok (.jpNzA16 0b0001001000110100#16) [], .ok (.jpZA16 0b0001001000110100#16) [],
    .ok (.jpNcA16 0b0001001000110100#16) [], .ok (.jpCA16 0b0001001000110100#16) []] := by decide

/-- R135, from the bit patterns of spec/opcode_table.json. -/
theorem test_decode_jp :
    [
    [0b11000011#8, 0b00110100#8, 0b00010010#8]].map decode =
    [
    .ok (.jpA16 0b0001001000110100#16) []] := by decide

/-- R131, from the bit patterns of spec/opcode_table.json. -/
theorem test_decode_rrc :
    [
    [0b11001011#8, 0b00001000#8], [0b11001011#8, 0b00001001#8], [0b11001011#8, 0b00001010#8],
    [0b11001011#8, 0b00001011#8], [0b11001011#8, 0b00001100#8], [0b11001011#8, 0b00001101#8],
    [0b11001011#8, 0b00001111#8]].map decode =
    [
    .ok .rrcB [], .ok .rrcC [], .ok .rrcD [], .ok .rrcE [], .ok .rrcH [], .ok .rrcL [], .ok .rrcA []] := by decide

/-- R132, from the bit patterns of spec/opcode_table.json. -/
theorem test_decode_srl :
    [
    [0b11001011#8, 0b00111000#8], [0b11001011#8, 0b00111001#8], [0b11001011#8, 0b00111010#8],
    [0b11001011#8, 0b00111011#8], [0b11001011#8, 0b00111100#8], [0b11001011#8, 0b00111101#8],
    [0b11001011#8, 0b00111111#8]].map decode =
    [
    .ok .srlB [], .ok .srlC [], .ok .srlD [], .ok .srlE [], .ok .srlH [], .ok .srlL [], .ok .srlA []] := by decide

/-- 30_encoding.md R68, R70: bytes without a meaning, and an instruction that is cut off. -/
theorem test_decode_rejects :
    [[0b11111111#8], [0b00110100#8, 0x00#8], [0b11001011#8, 0b00001110#8], [0b11001011#8, 0b01000000#8], [0b11001011#8],
      [0b00000110#8], [0b00000001#8, 0x34#8], []].map decode =
    [.unknownOpcode 0xFF#8 none, .unknownOpcode 0x34#8 none, .unknownOpcode 0xCB#8 (some 0x0E#8),
      .unknownOpcode 0xCB#8 (some 0x40#8), .missingByte 1, .missingByte 1, .missingByte 2, .missingByte 0] := by decide

/-- The host's numbering: the first byte low, but for the 16-bit rows behind the prefix byte (log entry 4). -/
theorem test_decodeTableWord :
    [(8, 0x00), (8, 0x76), (8, 0x01), (24, 0x123401), (16, 0xA53E), (16, 0xCB3E), (16, 0xCB39), (16, 0xCB08), (8, 0xFF),
      (16, 0xCB0E), (8, 0xCB)].map (fun p => decodeTableWord p.1 p.2) =
    [some .nop, some .halt, some (.ldBcD16 0#16), some (.ldBcD16 0x1234#16), some (.ldAD8 0xA5#8), some (.ldAD8 0xCB#8),
      some .srlC, some .rrcB, none, some (.ldCD8 0xCB#8), none] := by decide

/-- The very next step runs the placed instruction. -/
theorem test_withFetchWord :
    step (State.reset.withFetchWord 16 0xCB39) = exec .srlC (State.reset.withFetchWord 16 0xCB39) ∧
    step (State.reset.withFetchWord 24 0x0200C3) = exec (.jpA16 0x0200#16) (State.reset.withFetchWord 24 0x0200C3) := ⟨rfl, rfl⟩

/-! ## Reset and load -/

/-- S4a: the image at address 0, zero beyond it, and the next step enabled. -/
theorem test_load_places_image :
    load [0xAA#8, 0x00#8, 0xCC#8] = .loaded { State.reset with mem := [(0, 0xAA#8), (2, 0xCC#8)] } := by decide

/-- The first step after reset with nothing loaded is a `NOP` at 0x0100 (log entry 5). -/
theorem test_reset_runs_nop : stepsTo State.reset { State.reset with pc := 0x0101#16, cycles := 4#64 } = true := by decide

/-- The register-file rows S1b, S2a and S3c. -/
theorem test_ports :
    (State.reset.writeU16 .af 0x12FF#16).readU16 .af = 0x12FF#16 ∧
    ({ State.reset with hl := 0x1234#16 }.writeU8 .h 0xAB#8).hl = 0xAB34#16 ∧
    ({ State.reset with af := 0x5A50#16 }.writeFlag .c false).af = 0x5A40#16 := by decide

/-- 20_memory.md R54: the byte a store leaves is the byte the next fetch reads (the row `LD (HL),A` with HL = 0x0101). -/
theorem test_store_is_fetched :
    ((start 0x0100#16 [0x77#8]).memWrite 0x0101#16 0x76#8).fetchBytes = [0x77#8, 0x76#8, 0x00#8] := by decide

/-- A write of the value an unlisted cell reads as removes the cell. -/
theorem test_memory_canonical :
    Memory.write [(1, 0x10#8), (5, 0x50#8)] 3 0x30#8 = [(1, 0x10#8), (3, 0x30#8), (5, 0x50#8)] ∧
    Memory.write [(1, 0x10#8), (5, 0x50#8)] 5 0x00#8 = [(1, 0x10#8)] := by decide

/-! ## One step: rows of spec/95_test_vectors.md section 2 -/

theorem test_nop_1 :
    let s := start 0x0100#16 [0x00#8]
    stepsTo s { s with pc := 0x0101#16, cycles := 4#64 } = true := by decide

theorem test_nop_2 :
    let s := start 0xFFFF#16 [0x00#8]
    stepsTo s { s with status := .faulted (.outOfRange 0xFFFF#16 0x00#8 .nextPc 0x10000#17) } = true := by decide

theorem test_ldBcD16_1 :
    let s := start 0x0100#16 [0x01#8, 0x34#8, 0x12#8]
    stepsTo s { s with bc := 0x1234#16, pc := 0x0103#16, cycles := 12#64 } = true := by decide

theorem test_ldBcD16_2 :
    let s := { start 0x0100#16 [0x01#8, 0x00#8, 0x00#8] with bc := 0xABCD#16, af := 0x00F0#16 }
    stepsTo s { s with bc := 0x0000#16, pc := 0x0103#16, cycles := 12#64 } = true := by decide

theorem test_ldIndBcA :
    let s := { start 0x0100#16 [0x02#8] with bc := 0xC000#16, af := 0x5A00#16 }
    stepsTo s { s with pc := 0x0101#16, cycles := 8#64, mem := [(0x0100, 0x02#8), (0xC000, 0x5A#8)] } = true := by decide

theorem test_incBc :
    let s := { start 0x0100#16 [0x03#8] with bc := 0x00FF#16 }
    stepsTo s { s with bc := 0x0100#16, pc := 0x0101#16, cycles := 8#64 } = true := by decide

theorem test_incB_1 :
    let s := { start 0x0100#16 [0x04#8] with bc := 0xFF55#16 }
    stepsTo s { s with af := 0x00A0#16, bc := 0x0055#16, pc := 0x0101#16, cycles := 4#64 } = true := by decide

theorem test_incB_2 :
    let s := { start 0x0100#16 [0x04#8] with bc := 0xFF00#16, af := 0x00F0#16 }
    stepsTo s { s with af := 0x00B0#16, bc := 0x0000#16, pc := 0x0101#16, cycles := 4#64 } = true := by decide

theorem test_decB_1 :
    let s := { start 0x0100#16 [0x05#8] with bc := 0x0055#16 }
    stepsTo s { s with af := 0x0060#16, bc := 0xFF55#16, pc := 0x0101#16, cycles := 4#64 } = true := by decide

theorem test_decB_2 :
    let s := { start 0x0100#16 [0x05#8] with bc := 0x0100#16, af := 0x0010#16 }
    stepsTo s { s with af := 0x00D0#16, bc := 0x0000#16, pc := 0x0101#16, cycles := 4#64 } = true := by decide

theorem test_ldBD8 :
    let s := start 0x0100#16 [0x06#8, 0x03#8]
    stepsTo s { s with bc := 0x0300#16, pc := 0x0102#16, cycles := 8#64 } = true := by decide

theorem test_decBc :
    let s := { start 0x0100#16 [0x0B#8] with bc := 0x0100#16 }
    stepsTo s { s with bc := 0x00FF#16, pc := 0x0101#16, cycles := 8#64 } = true := by decide

theorem test_incC :
    let s := { start 0x0100#16 [0x0C#8] with bc := 0x12FF#16 }
    stepsTo s { s with af := 0x00A0#16, bc := 0x1200#16, pc := 0x0101#16, cycles := 4#64 } = true := by decide

theorem test_decC :
    let s := { start 0x0100#16 [0x0D#8] with bc := 0x1200#16 }
    stepsTo s { s with af := 0x0060#16, bc := 0x12FF#16, pc := 0x0101#16, cycles := 4#64 } = true := by decide

theorem test_ldCD8 :
    let s := { start 0x0100#16 [0x0E#8, 0xFF#8] with bc := 0x1200#16 }
    stepsTo s { s with bc := 0x12FF#16, pc := 0x0102#16, cycles := 8#64 } = true := by decide

theorem test_rrca_1 :
    let s := { start 0x0100#16 [0x0F#8] with af := 0x0100#16 }
    stepsTo s { s with af := 0x8010#16, pc := 0x0101#16, cycles := 4#64 } = true := by decide

theorem test_rrca_2 :
    let s := { start 0x0100#16 [0x0F#8] with af := 0x00F0#16 }
    stepsTo s { s with af := 0x0000#16, pc := 0x0101#16, cycles := 4#64 } = true := by decide

theorem test_ldDeD16 :
    let s := start 0x0100#16 [0x11#8, 0xFF#8, 0x00#8]
    stepsTo s { s with de := 0x00FF#16, pc := 0x0103#16, cycles := 12#64 } = true := by decide

theorem test_ldIndDeA :
    let s := { start 0x0100#16 [0x12#8] with de := 0xFFFF#16, af := 0x8100#16 }
    stepsTo s { s with pc := 0x0101#16, cycles := 8#64, mem := [(0x0100, 0x12#8), (0xFFFF, 0x81#8)] } = true := by decide

theorem test_incDe :
    let s := { start 0x0100#16 [0x13#8] with de := 0xFFFF#16 }
    stepsTo s { s with de := 0x0000#16, pc := 0x0101#16, cycles := 8#64 } = true := by decide

theorem test_incD :
    let s := { start 0x0100#16 [0x14#8] with de := 0x0F00#16 }
    stepsTo s { s with af := 0x0020#16, de := 0x1000#16, pc := 0x0101#16, cycles := 4#64 } = true := by decide

theorem test_decD :
    let s := { start 0x0100#16 [0x15#8] with de := 0x2000#16 }
    stepsTo s { s with af := 0x0060#16, de := 0x1F00#16, pc := 0x0101#16, cycles := 4#64 } = true := by decide

theorem test_ldDD8 :
    let s := start 0x0100#16 [0x16#8, 0x80#8]
    stepsTo s { s with de := 0x8000#16, pc := 0x0102#16, cycles := 8#64 } = true := by decide

theorem test_decDe :
    let s := { start 0x0100#16 [0x1B#8] with de := 0x0001#16 }
    stepsTo s { s with de := 0x0000#16, pc := 0x0101#16, cycles := 8#64 } = true := by decide

theorem test_incE :
    let s := { start 0x0100#16 [0x1C#8] with de := 0x00EF#16 }
    stepsTo s { s with af := 0x0020#16, de := 0x00F0#16, pc := 0x0101#16, cycles := 4#64 } = true := by decide

theorem test_decE :
    let s := { start 0x0100#16 [0x1D#8] with de := 0x0001#16 }
    stepsTo s { s with af := 0x00C0#16, de := 0x0000#16, pc := 0x0101#16, cycles := 4#64 } = true := by decide

theorem test_ldED8 :
    let s := { start 0x0100#16 [0x1E#8, 0x01#8] with de := 0xAAAA#16 }
    stepsTo s { s with de := 0xAA01#16, pc := 0x0102#16, cycles := 8#64 } = true := by decide

theorem test_ldHlD16_1 :
    let s := start 0xFFFC#16 [0x21#8, 0x34#8, 0x12#8]
    stepsTo s { s with hl := 0x1234#16, pc := 0xFFFF#16, cycles := 12#64 } = true := by decide

theorem test_ldHlD16_2 :
    let s := start 0xFFFD#16 [0x21#8, 0x34#8, 0x12#8]
    stepsTo s { s with status := .faulted (.outOfRange 0xFFFD#16 0x21#8 .nextPc 0x10000#17) } = true := by decide

theorem test_incHl :
    let s := { start 0x0100#16 [0x23#8] with hl := 0xC0FF#16 }
    stepsTo s { s with hl := 0xC100#16, pc := 0x0101#16, cycles := 8#64 } = true := by decide

theorem test_incH :
    let s := { start 0x0100#16 [0x24#8] with hl := 0xFFFF#16 }
    stepsTo s { s with af := 0x00A0#16, hl := 0x00FF#16, pc := 0x0101#16, cycles := 4#64 } = true := by decide

theorem test_decH :
    let s := { start 0x0100#16 [0x25#8] with hl := 0x0100#16 }
    stepsTo s { s with af := 0x00C0#16, hl := 0x0000#16, pc := 0x0101#16, cycles := 4#64 } = true := by decide

theorem test_ldHD8 :
    let s := { start 0x0100#16 [0x26#8, 0xC0#8] with hl := 0x0034#16 }
    stepsTo s { s with hl := 0xC034#16, pc := 0x0102#16, cycles := 8#64 } = true := by decide

theorem test_decHl :
    let s := { start 0x0100#16 [0x2B#8] with hl := 0x0000#16 }
    stepsTo s { s with hl := 0xFFFF#16, pc := 0x0101#16, cycles := 8#64 } = true := by decide

theorem test_incL :
    let s := { start 0x0100#16 [0x2C#8] with hl := 0xFFFF#16 }
    stepsTo s { s with af := 0x00A0#16, hl := 0xFF00#16, pc := 0x0101#16, cycles := 4#64 } = true := by decide

theorem test_decL :
    let s := { start 0x0100#16 [0x2D#8] with hl := 0xAB10#16 }
    stepsTo s { s with af := 0x0060#16, hl := 0xAB0F#16, pc := 0x0101#16, cycles := 4#64 } = true := by decide

theorem test_ldLD8 :
    let s := { start 0x0100#16 [0x2E#8, 0x00#8] with hl := 0x12FF#16 }
    stepsTo s { s with hl := 0x1200#16, pc := 0x0102#16, cycles := 8#64 } = true := by decide

theorem test_ldSpD16 :
    let s := start 0x0100#16 [0x31#8, 0xFE#8, 0xFF#8]
    stepsTo s { s with sp := 0xFFFE#16, pc := 0x0103#16, cycles := 12#64 } = true := by decide

theorem test_incSp :
    let s := { start 0x0100#16 [0x33#8] with sp := 0xFFFE#16 }
    stepsTo s { s with sp := 0xFFFF#16, pc := 0x0101#16, cycles := 8#64 } = true := by decide

theorem test_decSp :
    let s := { start 0x0100#16 [0x3B#8] with sp := 0x0000#16 }
    stepsTo s { s with sp := 0xFFFF#16, pc := 0x0101#16, cycles := 8#64 } = true := by decide

theorem test_incA :
    let s := { start 0x0100#16 [0x3C#8] with af := 0x3F40#16 }
    stepsTo s { s with af := 0x4020#16, pc := 0x0101#16, cycles := 4#64 } = true := by decide

theorem test_decA :
    let s := { start 0x0100#16 [0x3D#8] with af := 0x01B0#16 }
    stepsTo s { s with af := 0x00D0#16, pc := 0x0101#16, cycles := 4#64 } = true := by decide

theorem test_ldAD8_1 :
    let s := { start 0x0100#16 [0x3E#8, 0x00#8] with af := 0xFFF0#16 }
    stepsTo s { s with af := 0x00F0#16, pc := 0x0102#16, cycles := 8#64 } = true := by decide

theorem test_ldAD8_2 :
    let s := start 0xFFFF#16 [0x3E#8]
    stepsTo s { s with status := .faulted (.outOfRange 0xFFFF#16 0x3E#8 .operandRead 0x10000#17) } = true := by decide

theorem test_ldIndHlB :
    let s := { start 0x0100#16 [0x70#8] with hl := 0xD000#16, bc := 0x1234#16 }
    stepsTo s { s with pc := 0x0101#16, cycles := 8#64, mem := [(0x0100, 0x70#8), (0xD000, 0x12#8)] } = true := by decide

theorem test_ldIndHlC :
    let s := { start 0x0100#16 [0x71#8] with hl := 0xD000#16, bc := 0x1234#16 }
    stepsTo s { s with pc := 0x0101#16, cycles := 8#64, mem := [(0x0100, 0x71#8), (0xD000, 0x34#8)] } = true := by decide

theorem test_ldIndHlD :
    let s := { start 0x0100#16 [0x72#8] with hl := 0x0000#16, de := 0xABCD#16 }
    stepsTo s { s with pc := 0x0101#16, cycles := 8#64, mem := [(0x0000, 0xAB#8), (0x0100, 0x72#8)] } = true := by decide

theorem test_ldIndHlE :
    let s := { start 0x0100#16 [0x73#8] with hl := 0x0000#16, de := 0xABCD#16 }
    stepsTo s { s with pc := 0x0101#16, cycles := 8#64, mem := [(0x0000, 0xCD#8), (0x0100, 0x73#8)] } = true := by decide

theorem test_ldIndHlH :
    let s := { start 0x0100#16 [0x74#8] with hl := 0xC001#16 }
    stepsTo s { s with pc := 0x0101#16, cycles := 8#64, mem := [(0x0100, 0x74#8), (0xC001, 0xC0#8)] } = true := by decide

theorem test_ldIndHlL :
    let s := { start 0x0100#16 [0x75#8] with hl := 0xC001#16 }
    stepsTo s { s with pc := 0x0101#16, cycles := 8#64, mem := [(0x0100, 0x75#8), (0xC001, 0x01#8)] } = true := by decide

theorem test_halt_1 :
    let s := start 0x0100#16 [0x76#8]
    stepsTo s { s with pc := 0x0101#16, cycles := 4#64, status := .halted 0x0100#16 } = true := by decide

theorem test_halt_2 :
    let s := start 0xFFFF#16 [0x76#8]
    stepsTo s { s with status := .faulted (.outOfRange 0xFFFF#16 0x76#8 .nextPc 0x10000#17) } = true := by decide

theorem test_ldIndHlA_1 :
    let s := { start 0x0100#16 [0x77#8] with hl := 0x0100#16, af := 0x0000#16 }
    stepsTo s { s with pc := 0x0101#16, cycles := 8#64, mem := [] } = true := by decide

theorem test_ldIndHlA_2 :
    let s := { start 0x0100#16 [0x77#8] with hl := 0x0101#16, af := 0x7600#16 }
    stepsTo s { s with pc := 0x0101#16, cycles := 8#64, mem := [(0x0100, 0x77#8), (0x0101, 0x76#8)] } = true := by decide

theorem test_jpNzA16_1 :
    let s := { start 0x0100#16 [0xC2#8, 0x00#8, 0x02#8] with af := 0x0000#16 }
    stepsTo s { s with pc := 0x0200#16, cycles := 16#64 } = true := by decide

theorem test_jpNzA16_2 :
    let s := { start 0x0100#16 [0xC2#8, 0x00#8, 0x02#8] with af := 0x0080#16 }
    stepsTo s { s with pc := 0x0103#16, cycles := 12#64 } = true := by decide

theorem test_jpA16_1 :
    let s := start 0x0100#16 [0xC3#8, 0x00#8, 0x02#8]
    stepsTo s { s with pc := 0x0200#16, cycles := 16#64 } = true := by decide

theorem test_jpA16_2 :
    let s := start 0xFFFE#16 [0xC3#8, 0x34#8]
    stepsTo s { s with status := .faulted (.outOfRange 0xFFFE#16 0xC3#8 .operandRead 0x10000#17) } = true := by decide

theorem test_jpZA16_1 :
    let s := { start 0x0100#16 [0xCA#8, 0x00#8, 0x02#8] with af := 0x0000#16 }
    stepsTo s { s with pc := 0x0103#16, cycles := 12#64 } = true := by decide

theorem test_jpZA16_2 :
    let s := { start 0x0100#16 [0xCA#8, 0x00#8, 0x02#8] with af := 0x0080#16 }
    stepsTo s { s with pc := 0x0200#16, cycles := 16#64 } = true := by decide

theorem test_jpNcA16_1 :
    let s := { start 0x0100#16 [0xD2#8, 0x00#8, 0x02#8] with af := 0x0080#16 }
    stepsTo s { s with pc := 0x0200#16, cycles := 16#64 } = true := by decide

theorem test_jpNcA16_2 :
    let s := { start 0x0100#16 [0xD2#8, 0x00#8, 0x02#8] with af := 0x0010#16 }
    stepsTo s { s with pc := 0x0103#16, cycles := 12#64 } = true := by decide

theorem test_jpCA16_1 :
    let s := { start 0x0100#16 [0xDA#8, 0x00#8, 0x02#8] with af := 0x0080#16 }
    stepsTo s { s with pc := 0x0103#16, cycles := 12#64 } = true := by decide

theorem test_jpCA16_2 :
    let s := { start 0x0100#16 [0xDA#8, 0x00#8, 0x02#8] with af := 0x0010#16 }
    stepsTo s { s with pc := 0x0200#16, cycles := 16#64 } = true := by decide

theorem test_rrcB :
    let s := { start 0x0100#16 [0xCB#8, 0x08#8] with bc := 0x0177#16 }
    stepsTo s { s with af := 0x0010#16, bc := 0x8077#16, pc := 0x0102#16, cycles := 8#64 } = true := by decide

theorem test_rrcC :
    let s := { start 0x0100#16 [0xCB#8, 0x09#8] with bc := 0x7703#16 }
    stepsTo s { s with af := 0x0010#16, bc := 0x7781#16, pc := 0x0102#16, cycles := 8#64 } = true := by decide

theorem test_rrcD :
    let s := { start 0x0100#16 [0xCB#8, 0x0A#8] with de := 0x1000#16 }
    stepsTo s { s with de := 0x0800#16, pc := 0x0102#16, cycles := 8#64 } = true := by decide

theorem test_rrcE :
    let s := { start 0x0100#16 [0xCB#8, 0x0B#8] with de := 0x0011#16 }
    stepsTo s { s with af := 0x0010#16, de := 0x0088#16, pc := 0x0102#16, cycles := 8#64 } = true := by decide

theorem test_rrcH :
    let s := { start 0x0100#16 [0xCB#8, 0x0C#8] with hl := 0xFE00#16 }
    stepsTo s { s with hl := 0x7F00#16, pc := 0x0102#16, cycles := 8#64 } = true := by decide

theorem test_rrcL :
    let s := { start 0x0100#16 [0xCB#8, 0x0D#8] with hl := 0x0000#16, af := 0x0070#16 }
    stepsTo s { s with af := 0x0080#16, pc := 0x0102#16, cycles := 8#64 } = true := by decide

theorem test_rrcA :
    let s := { start 0x0100#16 [0xCB#8, 0x0F#8] with af := 0x0000#16 }
    stepsTo s { s with af := 0x0080#16, pc := 0x0102#16, cycles := 8#64 } = true := by decide

theorem test_srlB :
    let s := { start 0x0100#16 [0xCB#8, 0x38#8] with bc := 0x0277#16, af := 0x00F0#16 }
    stepsTo s { s with af := 0x0000#16, bc := 0x0177#16, pc := 0x0102#16, cycles := 8#64 } = true := by decide

theorem test_srlC :
    let s := { start 0x0100#16 [0xCB#8, 0x39#8] with bc := 0x7703#16 }
    stepsTo s { s with af := 0x0010#16, bc := 0x7701#16, pc := 0x0102#16, cycles := 8#64 } = true := by decide

theorem test_srlD :
    let s := { start 0x0100#16 [0xCB#8, 0x3A#8] with de := 0xFE00#16 }
    stepsTo s { s with de := 0x7F00#16, pc := 0x0102#16, cycles := 8#64 } = true := by decide

theorem test_srlE :
    let s := { start 0x0100#16 [0xCB#8, 0x3B#8] with de := 0x0001#16 }
    stepsTo s { s with af := 0x0090#16, de := 0x0000#16, pc := 0x0102#16, cycles := 8#64 } = true := by decide

theorem test_srlH :
    let s := { start 0x0100#16 [0xCB#8, 0x3C#8] with hl := 0x8000#16 }
    stepsTo s { s with hl := 0x4000#16, pc := 0x0102#16, cycles := 8#64 } = true := by decide

theorem test_srlL :
    let s := { start 0x0100#16 [0xCB#8, 0x3D#8] with hl := 0x00FF#16 }
    stepsTo s { s with af := 0x0010#16, hl := 0x007F#16, pc := 0x0102#16, cycles := 8#64 } = true := by decide

theorem test_srlA_1 :
    let s := { start 0x0100#16 [0xCB#8, 0x3F#8] with af := 0x0100#16 }
    stepsTo s { s with af := 0x0090#16, pc := 0x0102#16, cycles := 8#64 } = true := by decide

theorem test_srlA_2 :
    let s := { start 0xFFFD#16 [0xCB#8, 0x3F#8] with af := 0x0300#16 }
    stepsTo s { s with af := 0x0110#16, pc := 0xFFFF#16, cycles := 8#64 } = true := by decide

theorem test_unmapped_1 :
    let s := start 0x0100#16 [0xFF#8]
    stepsTo s { s with status := .faulted (.unknownOpcode 0x0100#16 0xFF#8 none) } = true := by decide

theorem test_unmapped_2 :
    let s := start 0xFFFF#16 [0xFF#8]
    stepsTo s { s with status := .faulted (.unknownOpcode 0xFFFF#16 0xFF#8 none) } = true := by decide

theorem test_unmapped_3 :
    let s := start 0x0100#16 [0xCB#8, 0x00#8]
    stepsTo s { s with status := .faulted (.unknownOpcode 0x0100#16 0xCB#8 (some 0x00#8)) } = true := by decide

theorem test_unmapped_4 :
    let s := start 0x0100#16 [0xCB#8, 0x0E#8]
    stepsTo s { s with status := .faulted (.unknownOpcode 0x0100#16 0xCB#8 (some 0x0E#8)) } = true := by decide


/-! ## Witnesses of the hypotheses of the statements -/

/-- Running, PC as given, and the byte there one of those given: the hypotheses of the clauses about the top of memory. -/
def meets (s : State) (pc : Word) (bytes : List Byte) : Bool :=
  decide (s.status = .running ∧ s.pc = pc ∧ s.mem.read s.pc.toNat ∈ bytes)

/-- A next-PC fault: `NOP` at 0xFFFF. -/
def faultedAtTop : State :=
  { start 0xFFFF#16 [] with status := .faulted (.outOfRange 0xFFFF#16 0x00#8 .nextPc 0x10000#17) }

/-- An unknown opcode: 0xFF at 0xFFFF. -/
def faultedUnknown : State :=
  { start 0xFFFF#16 [0xFF#8] with status := .faulted (.unknownOpcode 0xFFFF#16 0xFF#8 none) }

/-- An unknown sub-opcode whose last byte is at 0xFFFF. -/
def faultedSubop : State :=
  { start 0xFFFE#16 [0xCB#8, 0xFF#8] with status := .faulted (.unknownOpcode 0xFFFE#16 0xCB#8 (some 0xFF#8)) }

/-- An operand byte past the top: `JP a16` at 0xFFFE. -/
def faultedOperand : State :=
  { start 0xFFFE#16 [0xC3#8, 0x34#8] with status := .faulted (.outOfRange 0xFFFE#16 0xC3#8 .operandRead 0x10000#17) }

/-- `HALT` executed at 0x0100. -/
def haltedAtEntry : State :=
  { start 0x0100#16 [0x76#8] with pc := 0x0101#16, cycles := 4#64, status := .halted 0x0100#16 }

/-- The four faulting steps of the witnesses below. -/
theorem witness_faulting_steps :
    step (start 0xFFFF#16 []) = .next faultedAtTop ∧ step (start 0xFFFF#16 [0xFF#8]) = .next faultedUnknown ∧
    step (start 0xFFFE#16 [0xCB#8, 0xFF#8]) = .next faultedSubop ∧
    step (start 0xFFFE#16 [0xC3#8, 0x34#8]) = .next faultedOperand := ⟨rfl, rfl, rfl, rfl⟩

theorem witness_LoadLeavesResetState :
    ([] : List Byte).length ≤ 0x10000 ∧ (List.replicate 0x10000 (0x76#8 : Byte)).length ≤ 0x10000 ∧
    0xFFFF < (List.replicate 0x10000 (0x76#8 : Byte)).length ∧ [0xAA#8].length ≤ 0xFFFF := by
  rw [List.length_replicate]; decide

theorem witness_OversizedImageRejected :
    0x10000 < (List.replicate 0x10001 (0x76#8 : Byte)).length ∧
    (List.replicate 0x10000 (0x76#8 : Byte)).length ≤ 0x10000 := by
  rw [List.length_replicate, List.length_replicate]; decide

theorem witness_SlotPorts : Slot.pc ≠ Slot.af := by decide

theorem witness_LanePorts : Lane.f ≠ Lane.a ∧ Slot.sp ≠ lanePair .f ∧ Slot.af ≠ lanePair .l := by decide

theorem witness_FlagPorts : Flag.n ≠ Flag.z ∧ Lane.a ≠ Lane.f ∧ Slot.bc ≠ Slot.af := by decide

theorem witness_MemoryReadAndWrite : (0xFFFE : Nat) ≠ (0xFFFF#16 : Word).toNat := by decide

theorem witness_CanonicalMemoryIsUnique :
    Memory.wf [(0, 0x01#8), (0xFFFF, 0xFF#8)] = true ∧ (0xFFFF : Nat) < 0x10000 ∧
    Memory.wf [(0, 0x00#8)] = false ∧ Memory.wf [(0x10000, 0x01#8)] = false ∧
    Memory.wf [(5, 0x01#8), (5, 0x02#8)] = false ∧
    ∀ a, a < 0x10000 → Memory.read [(0, 0x01#8), (0xFFFF, 0xFF#8)] a = Memory.read [(0, 0x01#8), (0xFFFF, 0xFF#8)] a :=
  ⟨by decide, by decide, by decide, by decide, by decide, fun _ _ => rfl⟩

theorem witness_EncodeOfDecode : decode [0xCB#8, 0x3F#8, 0x77#8] = .ok .srlA [0x77#8] := by decide

theorem witness_EveryByteMappedOrUnmapped :
    (0x07#8 : Byte) ≠ 0xCB#8 ∧ (start 0x0000#16 [0x07#8]).status = .running ∧
    unmappedPrimary ((start 0x0000#16 [0x07#8]).mem.read (start 0x0000#16 [0x07#8]).pc.toNat) = true ∧
    unmappedPrimary ((start 0xFFFF#16 [0xFF#8]).mem.read (start 0xFFFF#16 [0xFF#8]).pc.toNat) = true := by decide

theorem witness_UnknownOpcodeDiagnostic :
    (let s := start 0xFFFE#16 [0xCB#8, 0x40#8]
     s.status = .running ∧ s.mem.read s.pc.toNat = 0xCB#8 ∧ s.pc.toNat + 1 < 0x10000 ∧
     unmappedSecondary (s.mem.read (s.pc.toNat + 1)) = true) ∧
    (let s := start 0xFFFF#16 [0xCB#8]
     s.status = .running ∧ s.mem.read s.pc.toNat = 0xCB#8 ∧ s.pc = 0xFFFF#16) ∧
    (let s := start 0xFFFE#16 [0xCB#8, 0x3F#8]
     s.status = .running ∧ s.mem.read s.pc.toNat = 0xCB#8 ∧ s.pc.toNat + 1 < 0x10000 ∧
     unmappedSecondary (s.mem.read (s.pc.toNat + 1)) = false) := by decide

/-- The last two clauses of `UnknownOpcodeDiagnostic`. -/
theorem witness_UnknownOpcodeDiagnostic_raised :
    step (start 0xFFFF#16 [0xFF#8]) = .next faultedUnknown ∧
    faultedUnknown.status = .faulted (.unknownOpcode 0xFFFF#16 0xFF#8 none) ∧
    step (start 0xFFFE#16 [0xCB#8, 0xFF#8]) = .next faultedSubop ∧
    faultedSubop.status = .faulted (.unknownOpcode 0xFFFE#16 0xCB#8 (some 0xFF#8)) ∧
    State.reset.status = .running ∧
    exec .nop State.reset = .next { State.reset with pc := 0x0101#16, cycles := 4#64 } := ⟨rfl, rfl, rfl, rfl, rfl, rfl⟩

theorem witness_StepRunsDecodedInstruction :
    (start 0xFFFD#16 [0xC3#8, 0x34#8, 0x12#8]).status = .running ∧
    decode (start 0xFFFD#16 [0xC3#8, 0x34#8, 0x12#8]).fetchBytes = .ok (.jpA16 0x1234#16) [] ∧
    decode (start 0xFFFF#16 [0x76#8]).fetchBytes = .ok .halt [] := by decide

theorem witness_EncodedBytesAtPcExecute :
    (start 0xFFFE#16 [0xCB#8, 0x38#8]).status = .running ∧
    ∀ k (h : k < (encode .srlB).length), (start 0xFFFE#16 [0xCB#8, 0x38#8]).pc.toNat + k < 0x10000 ∧
      (start 0xFFFE#16 [0xCB#8, 0x38#8]).mem.read ((start 0xFFFE#16 [0xCB#8, 0x38#8]).pc.toNat + k) =
        (encode .srlB)[k] := by
  refine ⟨rfl, fun k h => ?_⟩
  match k, h with
  | 0, _ => exact ⟨by decide, rfl⟩
  | 1, _ => exact ⟨by decide, rfl⟩

/-- Two states that differ in registers, flags, other memory and status. -/
theorem witness_DecodingDependsOnBytesOnly :
    let s := start 0xFFFF#16 [0x06#8]
    let s' := { s with af := 0xFFF0#16, mem := [(7, 0x01#8), (0xFFFF, 0x06#8)], status := .halted 0x0000#16 }
    s'.pc = s.pc ∧ ∀ k, k ≤ 2 → s'.mem.read (s.pc.toNat + k) = s.mem.read (s.pc.toNat + k) := by decide

theorem witness_NoStepUnlessRunning :
    haltedAtEntry.status = .halted 0x0100#16 ∧
    faultedUnknown.status = .faulted (.unknownOpcode 0xFFFF#16 0xFF#8 none) ∧ haltedAtEntry.status ≠ .running := by decide

theorem witness_RunStepsWhileRunning :
    State.reset.status = .running ∧ run 0 State.reset = .next State.reset ∧
    run 2 (start 0x0100#16 [0x76#8]) = .next haltedAtEntry ∧ haltedAtEntry.status ≠ .running :=
  ⟨rfl, rfl, rfl, by decide⟩

theorem witness_FaultsArePrecise :
    step (start 0xFFFE#16 [0xC3#8, 0x34#8]) = .next faultedOperand ∧
    faultedOperand.status = .faulted (.outOfRange 0xFFFE#16 0xC3#8 .operandRead 0x10000#17) := ⟨rfl, rfl⟩

theorem witness_DiagnosticReplaysTheFault :
    step (start 0xFFFE#16 [0xCB#8, 0xFF#8]) = .next faultedSubop ∧
    faultedSubop.status = .faulted (.unknownOpcode 0xFFFE#16 0xCB#8 (some 0xFF#8)) := ⟨rfl, rfl⟩

/-- Both kinds of `OutOfRange`, and each disjunct of the second clause. -/
theorem witness_OutOfRangeDiagnostic :
    step (start 0xFFFF#16 []) = .next faultedAtTop ∧
    faultedAtTop.status = .faulted (.outOfRange 0xFFFF#16 0x00#8 .nextPc 0x10000#17) ∧
    (meets (start 0xFFFF#16 [0xCB#8]) 0xFFFF#16 [0xCB#8] = true ∧
      meets (start 0xFFFF#16 [0x06#8]) 0xFFFF#16 d8Opcodes = true ∧
      meets (start 0xFFFF#16 [0xDA#8]) 0xFFFF#16 d16Opcodes = true ∧
      meets (start 0xFFFE#16 [0x01#8]) 0xFFFE#16 d16Opcodes = true) ∧
    decode (start 0xFFFF#16 []).fetchBytes = .ok .nop [] ∧ (start 0xFFFF#16 []).pc.toNat + Instr.nop.length = 0x10000 :=
  ⟨rfl, rfl, by decide, rfl, rfl⟩

theorem witness_OperandReadsPastTopFault :
    meets (start 0xFFFF#16 [0xCB#8]) 0xFFFF#16 [0xCB#8] = true ∧
    meets (start 0xFFFF#16 [0x3E#8]) 0xFFFF#16 d8Opcodes = true ∧
    meets (start 0xFFFF#16 [0xC3#8]) 0xFFFF#16 d16Opcodes = true ∧
    meets (start 0xFFFE#16 [0xC3#8]) 0xFFFE#16 d16Opcodes = true := by decide

theorem witness_NextPcPastTopFaults :
    nextPc .nop (start 0xFFFF#16 []) = 0x10000 ∧ nextPc (.ldBcD16 0#16) (start 0xFFFF#16 []) = 0x10002 := by decide

theorem witness_HaltedExactlyByHalt :
    step (start 0x0100#16 [0x76#8]) = .next haltedAtEntry ∧ haltedAtEntry.status = .halted 0x0100#16 ∧
    (start 0x0100#16 [0x76#8]).status = .running ∧ exec .halt (start 0x0100#16 [0x76#8]) = .next haltedAtEntry :=
  ⟨rfl, rfl, rfl, rfl⟩

/-- Every instruction meets the hypotheses in the reset state: each completes somewhere. -/
theorem witness_EveryInstructionCompletes (i : Instr) :
    nextPc i State.reset < 0x10000 ∧ State.reset.cycles.toNat + Config.cycleCost (costOf i State.reset) < 2 ^ 64 := by
  have pcs : (0x0101 : Nat) < 0x10000 ∧ (0x0102 : Nat) < 0x10000 ∧ (0x0103 : Nat) < 0x10000 := by decide
  have costs : (4 : Nat) < 2 ^ 64 ∧ (8 : Nat) < 2 ^ 64 ∧ (12 : Nat) < 2 ^ 64 ∧ (16 : Nat) < 2 ^ 64 := by decide
  constructor
  · cases i <;> first | exact pcs.1 | exact pcs.2.1 | exact pcs.2.2 | exact BitVec.isLt _
  · cases i <;> first | exact costs.1 | exact costs.2.1 | exact costs.2.2.1 | exact costs.2.2.2

/-- The highest PC and the fullest counter with which `NOP` completes; a step; a step that faults. -/
theorem witness_EveryInstructionCompletes_boundary :
    let s := { start 0xFFFE#16 [] with cycles := almostFull 4 }
    (nextPc .nop s < 0x10000 ∧ s.cycles.toNat + Config.cycleCost (costOf .nop s) < 2 ^ 64 ∧
      stepsTo s { s with pc := 0xFFFF#16, cycles := 0xFFFFFFFFFFFFFFFF#64 } = true) ∧
    step (start 0xFFFF#16 []) = .next faultedAtTop := ⟨by decide, rfl⟩

/-- The emptiest counter with which `NOP` is refused, and that it is. -/
theorem witness_CounterOverflowRefused :
    let s := { start 0xFFFE#16 [] with cycles := almostFull 3 }
    nextPc .nop s < 0x10000 ∧ 2 ^ 64 ≤ s.cycles.toNat + Config.cycleCost (costOf .nop s) ∧
    exec .nop s = .refused .cycleCounterOverflow := ⟨by decide, by decide, rfl⟩

theorem witness_RegisterFrame :
    exec .incB State.reset =
      .next { State.reset with bc := 0x0100#16, pc := 0x0101#16, cycles := 4#64 } ∧
    Lane.c ≠ .f ∧ Lane.c ∉ lanesWritten .incB ∧ writesSp .incB = false := ⟨rfl, by decide, by decide, rfl⟩

theorem witness_FlagFrame :
    exec .incB { State.reset with af := 0x0010#16 } =
      .next { State.reset with af := 0x0010#16, bc := 0x0100#16, pc := 0x0101#16, cycles := 4#64 } ∧
    writesCarry .incB = false ∧ writesZNH .incBc = false ∧
    exec .incBc State.reset = .next { State.reset with bc := 0x0001#16, pc := 0x0101#16, cycles := 8#64 } :=
  ⟨rfl, rfl, rfl, rfl⟩

theorem witness_MemoryFrame :
    let s := { State.reset with af := 0x7700#16, hl := 0xFFFF#16 }
    exec .ldIndHlA s = .next { s with mem := [(0xFFFF, 0x77#8)], pc := 0x0101#16, cycles := 8#64 } ∧
    storesTo .ldIndHlA s = some 0xFFFF#16 ∧ (∀ p, storesTo .ldIndHlA s = some p → (0xFFFE : Nat) ≠ p.toNat) ∧
    storesTo .nop s = none :=
  ⟨rfl, rfl, fun p h => by cases h; decide, rfl⟩

theorem witness_CyclesInfluenceNothing :
    step State.reset = .next { State.reset with pc := 0x0101#16, cycles := 4#64 } ∧
    step { State.reset with cycles := 100#64 } = .next { State.reset with pc := 0x0101#16, cycles := 104#64 } ∧
    stepWith (fun _ => 7) State.reset = .next { State.reset with pc := 0x0101#16, cycles := 7#64 } ∧
    stepWith (fun _ => 0) { State.reset with cycles := 100#64 } =
      .next { State.reset with pc := 0x0101#16, cycles := 100#64 } ∧
    commitWith Config.cycleCost State.reset ⟨State.reset, 0xFFFF#17, .nop⟩ =
      .next { State.reset with pc := 0xFFFF#16, cycles := 4#64 } ∧
    commitWith (fun _ => 0) State.reset ⟨State.reset, 0xFFFF#17, .nop⟩ = .next { State.reset with pc := 0xFFFF#16 } :=
  ⟨rfl, rfl, rfl, rfl, rfl, rfl⟩

theorem witness_StepNextPcPastTopFaults :
    (start 0xFFFD#16 [0x01#8, 0x34#8, 0x12#8]).status = .running ∧
    decode (start 0xFFFD#16 [0x01#8, 0x34#8, 0x12#8]).fetchBytes = .ok (.ldBcD16 0x1234#16) [] ∧
    0x10000 ≤ nextPc (.ldBcD16 0x1234#16) (start 0xFFFD#16 [0x01#8, 0x34#8, 0x12#8]) ∧
    holds State.reset .nz = true := by decide

/-- A table that is not the default one: the fullest counter that has room for its costs, and the emptiest that has not. -/
theorem witness_AnyCostTableRunsTheMachine :
    (let s := { start 0xFFFE#16 [] with cycles := almostFull 7 }
     nextPc .nop s < 0x10000 ∧ s.cycles.toNat + (fun _ => 7 : CycleCost) (costOf .nop s) < 2 ^ 64) ∧
    (let s := { start 0xFFFE#16 [] with cycles := almostFull 6 }
     nextPc .nop s < 0x10000 ∧ 2 ^ 64 ≤ s.cycles.toNat + (fun _ => 7 : CycleCost) (costOf .nop s)) ∧
    0x10000 ≤ nextPc .nop (start 0xFFFF#16 []) ∧ (start 0xFFFF#16 []).status = .running ∧
    decode (start 0xFFFF#16 []).fetchBytes = .ok .nop [] ∧
    decode (start 0xFFFF#16 [0xFF#8]).fetchBytes = .unknownOpcode 0xFF#8 none ∧ haltedAtEntry.status ≠ .running := by
  decide

/-- The machine of another table: a taken jump, a jump that is not taken, and the run to its `HALT`. -/
theorem test_another_table :
    let costs : CycleCost := fun e => if e = .jpCcTaken then 5 else if e = .jpCcNotTaken then 3 else 2
    stepWith costs (start 0x0100#16 [0xC2#8, 0x00#8, 0x02#8]) =
      .next { start 0x0100#16 [0xC2#8, 0x00#8, 0x02#8] with pc := 0x0200#16, cycles := 5#64 } ∧
    stepWith costs (start 0x0100#16 [0xCA#8, 0x00#8, 0x02#8]) =
      .next { start 0x0100#16 [0xCA#8, 0x00#8, 0x02#8] with pc := 0x0103#16, cycles := 3#64 } ∧
    runWith costs 2 (start 0x0100#16 [0x76#8]) = .next { haltedAtEntry with cycles := 2#64 } := ⟨rfl, rfl, rfl⟩

theorem witness_ReachableMemoryIsItsBytes :
    Reachable State.reset ∧ Reachable { State.reset with pc := 0x0101#16, cycles := 4#64 } ∧
    ∀ a, a < 0x10000 → { State.reset with pc := 0x0101#16, cycles := 4#64 }.mem.read a = State.reset.mem.read a :=
  ⟨.load (image := []) rfl, .step (.load (image := []) rfl) rfl, fun _ _ => rfl⟩

theorem witness_ResetMeetsInvariant : load [] = .loaded State.reset := rfl

/-- A state that no run reaches and that meets the invariant, and its step. -/
theorem witness_StepKeepsInvariant :
    let s := { start 0xFFFD#16 [0x77#8] with af := 0xABF0#16, hl := 0xFFFF#16 }
    s.inv ∧ step s = .next { s with mem := [(0xFFFD, 0x77#8), (0xFFFF, 0xAB#8)], pc := 0xFFFE#16, cycles := 8#64 } :=
  ⟨by decide, rfl⟩

theorem witness_LowNibbleZeroWhenReachable : Reachable { State.reset with pc := 0x0101#16, cycles := 4#64 } :=
  .step (.load (image := []) rfl) rfl

/-! ## Witnesses of the statements per instruction form, at the highest PC and the fullest counter that complete -/

theorem witness_NopAdvancesOnly :
    RoomFor { start 0xFFFE#16 [0x00#8] with cycles := almostFull 4 } 1 .nop ∧
    (start 0xFFFF#16 [0x00#8]).pc = 0xFFFF#16 := by decide

theorem witness_StoreAccumulatorThroughPair :
    RoomFor { start 0xFFFE#16 [0x02#8] with cycles := almostFull 8 } 1 .ldIndPpA ∧
    (start 0xFFFF#16 [0x02#8]).pc = 0xFFFF#16 := by decide

theorem witness_StoreLaneThroughHl :
    RoomFor { start 0xFFFE#16 [0x70#8] with cycles := almostFull 8 } 1 .ldIndHlR ∧
    (start 0xFFFF#16 [0x70#8]).pc = 0xFFFF#16 := by decide

theorem witness_IncSlotWraps :
    RoomFor { start 0xFFFE#16 [0x33#8] with cycles := almostFull 8 } 1 .incRr ∧
    (start 0xFFFF#16 [0x33#8]).pc = 0xFFFF#16 := by decide

theorem witness_DecSlotWraps :
    RoomFor { start 0xFFFE#16 [0x3B#8] with cycles := almostFull 8 } 1 .decRr ∧
    (start 0xFFFF#16 [0x3B#8]).pc = 0xFFFF#16 := by decide

theorem witness_IncLaneSetsFlags :
    RoomFor { start 0xFFFE#16 [0x3C#8] with cycles := almostFull 4 } 1 .incR ∧
    (start 0xFFFF#16 [0x3C#8]).pc = 0xFFFF#16 := by decide

theorem witness_DecLaneSetsFlags :
    RoomFor { start 0xFFFE#16 [0x3D#8] with cycles := almostFull 4 } 1 .decR ∧
    (start 0xFFFF#16 [0x3D#8]).pc = 0xFFFF#16 := by decide

theorem witness_RotateAccumulatorRight :
    RoomFor { start 0xFFFE#16 [0x0F#8] with cycles := almostFull 4 } 1 .rrca ∧
    (start 0xFFFF#16 [0x0F#8]).pc = 0xFFFF#16 := by decide

theorem witness_LoadImm16WritesSlot :
    RoomFor { start 0xFFFC#16 [0x01#8, 0x34#8, 0x12#8] with cycles := almostFull 12 } 3 .ldRrD16 ∧
    (start 0xFFFD#16 [0x01#8, 0x34#8, 0x12#8]).pc = 0xFFFD#16 ∧
    meets (start 0xFFFE#16 [0x31#8, 0x34#8]) 0xFFFE#16 [0x01#8, 0x11#8, 0x21#8, 0x31#8] = true ∧
    meets (start 0xFFFF#16 [0x21#8]) 0xFFFF#16 [0x01#8, 0x11#8, 0x21#8, 0x31#8] = true := by decide

theorem witness_LoadImm8WritesLane :
    RoomFor { start 0xFFFD#16 [0x3E#8, 0xA5#8] with cycles := almostFull 8 } 2 .ldRD8 ∧
    (start 0xFFFE#16 [0x3E#8, 0xA5#8]).pc = 0xFFFE#16 ∧
    meets (start 0xFFFF#16 [0x3E#8]) 0xFFFF#16 d8Opcodes = true := by decide

theorem witness_RotateLaneRight :
    RoomFor { start 0xFFFD#16 [0xCB#8, 0x08#8] with cycles := almostFull 8 } 2 .rrcR ∧
    (start 0xFFFE#16 [0xCB#8, 0x0F#8]).pc = 0xFFFE#16 ∧
    meets (start 0xFFFF#16 [0xCB#8]) 0xFFFF#16 [0xCB#8] = true := by decide

theorem witness_ShiftLaneRight :
    RoomFor { start 0xFFFD#16 [0xCB#8, 0x38#8] with cycles := almostFull 8 } 2 .srlR ∧
    (start 0xFFFE#16 [0xCB#8, 0x3F#8]).pc = 0xFFFE#16 ∧
    meets (start 0xFFFF#16 [0xCB#8]) 0xFFFF#16 [0xCB#8] = true := by decide

theorem witness_JumpSetsPc :
    { State.reset with cycles := almostFull 16 }.cycles.toNat + Config.cycleCost .jpA16 < Config.cycleLimit ∧
    meets (start 0xFFFE#16 [0xC3#8, 0x00#8]) 0xFFFE#16 [0xC3#8] = true ∧
    meets (start 0xFFFF#16 [0xC3#8]) 0xFFFF#16 [0xC3#8] = true := by decide

theorem witness_ConditionalJump :
    [Cond.nz, .z, .nc, .c].map (holds { State.reset with af := 0x0080#16 }) = [false, true, true, false] ∧
    [Cond.nz, .z, .nc, .c].map (holds { State.reset with af := 0x0010#16 }) = [true, false, false, true] ∧
    { State.reset with cycles := almostFull 16 }.cycles.toNat + Config.cycleCost .jpCcTaken < Config.cycleLimit ∧
    RoomFor { start 0xFFFC#16 [0xC2#8, 0x00#8, 0x02#8] with cycles := almostFull 12 } 3 .jpCcNotTaken ∧
    (start 0xFFFD#16 [0xC2#8, 0x00#8, 0x02#8]).pc = 0xFFFD#16 ∧
    holds (start 0xFFFD#16 [0xCA#8, 0x00#8, 0x02#8]) .z = false ∧
    meets (start 0xFFFE#16 [0xCA#8, 0x00#8]) 0xFFFE#16 [0xC2#8, 0xCA#8, 0xD2#8, 0xDA#8] = true ∧
    meets (start 0xFFFF#16 [0xDA#8]) 0xFFFF#16 [0xC2#8, 0xCA#8, 0xD2#8, 0xDA#8] = true := by decide

theorem witness_HaltEndsTheRun :
    RoomFor { start 0xFFFE#16 [0x76#8] with cycles := almostFull 4 } 1 .halt ∧
    (start 0xFFFF#16 [0x76#8]).pc = 0xFFFF#16 ∧
    State.reset.pc ≠ 0xFFFF#16 ∧
    exec .halt State.reset =
      .next { State.reset with pc := 0x0101#16, cycles := 4#64, status := .halted 0x0100#16 } := ⟨by decide, by decide, by decide, rfl⟩

end Sys2Proof.Tests
end

section
/-! The action of every instruction in the vocabulary of the statements, execution under any `CYCLE_COST` table from it
(spec/70_reset_and_hazards.md R262), and the statement about the table as an argument. -/

namespace Sys2Proof.Machine

open Sys2Proof.Claims

/-! ## The next PC, the cost entry and the writes of an action -/

/-- The model's condition is the table of 47_jump.md R137. -/
theorem State.cond_eq_holds (s : State) (cc : Cond) : s.cond cc = holds s cc := by
  cases cc <;> simp [State.cond, holds]

theorem jumpIf_nextPc_toNat {length : Nat} (h : length ≤ 3) (cc : Cond) (n : Word) (s : State) :
    (jumpIf length cc n s).nextPc.toNat = if holds s cc then n.toNat else s.pc.toNat + length := by
  rw [jumpIf, State.cond_eq_holds]
  split
  · exact jumpTarget_toNat n
  · exact s.fallThrough_toNat length h

theorem jumpIf_cost (length : Nat) (cc : Cond) (n : Word) (s : State) :
    (jumpIf length cc n s).cost = if holds s cc then .jpCcTaken else .jpCcNotTaken := by
  rw [jumpIf, State.cond_eq_holds]
  split <;> rfl

theorem jumpIf_withCycles (length : Nat) (cc : Cond) (n : Word) (s : State) (c : BitVec 64) :
    jumpIf length cc n { s with cycles := c } =
      { jumpIf length cc n s with written := { (jumpIf length cc n s).written with cycles := c } } := by
  have hcond : State.cond { s with cycles := c } cc = s.cond cc := by cases cc <;> rfl
  rw [jumpIf, jumpIf, hcond]
  split <;> rfl

/-- Every action goes where the table of 10_state.md R24 says: past the instruction, unless it jumps. -/
theorem actionOf_nextPc_toNat (i : Instr) (s : State) : (actionOf i s).nextPc.toNat = nextPc i s := by
  cases i with
  | jpA16 n => exact jumpTarget_toNat n
  | jpNzA16 n => exact jumpIf_nextPc_toNat (Nat.le_refl 3) .nz n s
  | jpZA16 n => exact jumpIf_nextPc_toNat (Nat.le_refl 3) .z n s
  | jpNcA16 n => exact jumpIf_nextPc_toNat (Nat.le_refl 3) .nc n s
  | jpCA16 n => exact jumpIf_nextPc_toNat (Nat.le_refl 3) .c n s
  | _ => exact s.fallThrough_toNat _ (Instr.length_le_three _)

/-- Every action takes the cost entry of its form, a conditional jump the one of its outcome. -/
theorem actionOf_cost (i : Instr) (s : State) : (actionOf i s).cost = costOf i s := by
  cases i with
  | jpNzA16 n => exact jumpIf_cost 3 .nz n s
  | jpZA16 n => exact jumpIf_cost 3 .z n s
  | jpNcA16 n => exact jumpIf_cost 3 .nc n s
  | jpCA16 n => exact jumpIf_cost 3 .c n s
  | _ => rfl

/-- No action reads the cycle counter, and none writes it (70_reset_and_hazards.md R263). -/
theorem actionOf_withCycles (i : Instr) (s : State) (c : BitVec 64) :
    actionOf i { s with cycles := c } =
      { actionOf i s with written := { (actionOf i s).written with cycles := c } } := by
  cases i with
  | jpNzA16 n => exact jumpIf_withCycles 3 .nz n s c
  | jpZA16 n => exact jumpIf_withCycles 3 .z n s c
  | jpNcA16 n => exact jumpIf_withCycles 3 .nc n s c
  | jpCA16 n => exact jumpIf_withCycles 3 .c n s c
  | _ => rfl

/-! ## Execution under a table -/

theorem execWith_completes {costs : CycleCost} {i : Instr} {s : State} (hpc : nextPc i s < 0x10000)
    (hc : s.cycles.toNat + costs (costOf i s) < 2 ^ 64) :
    execWith costs i s = .next ((actionOf i s).done costs s) :=
  commitWith_completes (by rwa [actionOf_nextPc_toNat]) (by rwa [actionOf_cost])

theorem execWith_refuses {costs : CycleCost} {i : Instr} {s : State} (hpc : nextPc i s < 0x10000)
    (hc : 2 ^ 64 ≤ s.cycles.toNat + costs (costOf i s)) :
    execWith costs i s = .refused .cycleCounterOverflow :=
  commitWith_refuses (by rwa [actionOf_nextPc_toNat]) (by rwa [actionOf_cost])

theorem execWith_faults {costs : CycleCost} {i : Instr} {s : State} (hpc : 0x10000 ≤ nextPc i s) :
    execWith costs i s = .next ((actionOf i s).offTheTop s) :=
  commitWith_faults (by rwa [actionOf_nextPc_toNat])

theorem exec_eq_execWith (i : Instr) (s : State) : exec i s = execWith Config.cycleCost i s :=
  exec_eq_commit i s

theorem actionOf_done_pc_toNat {costs : CycleCost} {i : Instr} {s : State} (hpc : nextPc i s < 0x10000) :
    ((actionOf i s).done costs s).pc.toNat = nextPc i s := by
  rw [Action.done_pc, BitVec.truncate_eq_setWidth, BitVec.toNat_setWidth, actionOf_nextPc_toNat]
  exact Nat.mod_eq_of_lt hpc

theorem actionOf_done_cycles_toNat {costs : CycleCost} {i : Instr} {s : State}
    (hc : s.cycles.toNat + costs (costOf i s) < 2 ^ 64) :
    ((actionOf i s).done costs s).cycles.toNat = s.cycles.toNat + costs (costOf i s) := by
  rw [Action.done_cycles, actionOf_cost, BitVec.toNat_ofNat]
  exact Nat.mod_eq_of_lt hc

/-- Neither the table nor the counter an instruction starts from shows outside the counter it leaves. -/
theorem actionOf_done_eq_but_cycles (costs costs' : CycleCost) (i : Instr) (s : State) (c : BitVec 64) :
    (actionOf i s).done costs s =
      { (actionOf i { s with cycles := c }).done costs' { s with cycles := c } with
        cycles := ((actionOf i s).done costs s).cycles } := by
  rw [actionOf_withCycles i s c]
  rfl

/-- A cost of the default table fits an empty counter. -/
theorem cycleCost_lt (e : CostEntry) : Config.cycleCost e < 2 ^ 64 := by
  cases e <;> decide

/-- From an empty counter, the default table completes every instruction whose next PC is in memory. -/
theorem exec_completes_from_zero_cycles {i : Instr} {s : State} (hpc : nextPc i s < 0x10000) :
    exec i { s with cycles := 0#64 } =
      .next ((actionOf i { s with cycles := 0#64 }).done Config.cycleCost { s with cycles := 0#64 }) := by
  have hpc' : nextPc i { s with cycles := 0#64 } < 0x10000 := by
    rwa [← actionOf_nextPc_toNat, actionOf_withCycles, actionOf_nextPc_toNat]
  rw [exec_eq_execWith]
  exact execWith_completes hpc' (by simpa using cycleCost_lt _)

/-! ## Steps under a table -/

theorem State.fetch_of_decode {s : State} {i : Instr} {rest : List Byte} (h : decode s.fetchBytes = .ok i rest) :
    s.fetch = .ok i := by
  rw [State.fetch, h]

theorem stepUsing_of_decode {execute : Instr → State → Host.Outcome State Fault Refusal} {s : State} {i : Instr}
    {rest : List Byte} (hrun : s.status = .running) (h : decode s.fetchBytes = .ok i rest) :
    stepUsing execute s = execute i s := by
  rw [stepUsing_running hrun, State.fetch_of_decode h]

/-- Where nothing executes, the way instructions execute does not matter. -/
theorem stepUsing_congr_of_no_instr (execute execute' : Instr → State → Host.Outcome State Fault Refusal) {s : State}
    (h : (∀ i rest, decode s.fetchBytes ≠ .ok i rest) ∨ s.status ≠ .running) :
    stepUsing execute s = stepUsing execute' s := by
  cases hs : s.status with
  | running =>
    have hno : ∀ i rest, decode s.fetchBytes ≠ .ok i rest := h.resolve_right (absurd hs)
    rw [stepUsing_running hs, stepUsing_running hs]
    obtain ⟨i, rest, hd, -⟩ | ⟨byte, subop, -, hf⟩ | ⟨offset, -, hf⟩ := s.fetch_cases
    · exact absurd hd (hno i rest)
    · rw [hf]
    · rw [hf]
  | halted addr => simp only [stepUsing, hs]
  | faulted info => simp only [stepUsing, hs]

theorem step_eq_stepWith : step = stepWith Config.cycleCost := by
  have hexec : exec = execWith Config.cycleCost := funext fun i => funext (exec_eq_execWith i)
  funext s
  rw [step, stepWith, hexec]

theorem run_eq_runWith (fuel : Nat) (s : State) : run fuel s = runWith Config.cycleCost fuel s := by
  rw [run_eq, runWith_eq, step_eq_stepWith]

theorem core_eq_coreWith : Sys2Proof.core = coreWith Config.cycleCost := by
  rw [Sys2Proof.core, coreWith, step_eq_stepWith]

/-- Settles O52. Execution is the commit of an action that knows no cost, and its next PC and cost entry are those of the
tables, so the three outcomes are those of commit. -/
theorem anyCostTableRunsTheMachine : Obligations.AnyCostTableRunsTheMachine := by
  refine ⟨?completes, fun _ _ _ => execWith_refuses, ?pastTop, fun _ _ _ _ => stepUsing_of_decode,
    fun costs _ => stepUsing_congr_of_no_instr (execWith costs) exec, exec_eq_execWith, congrFun step_eq_stepWith,
    run_eq_runWith, core_eq_coreWith⟩
  case completes =>
    intro costs i s hpc hc
    exact ⟨_, execWith_completes hpc hc, actionOf_done_pc_toNat hpc, actionOf_done_cycles_toNat hc, _,
      exec_completes_from_zero_cycles hpc, actionOf_done_eq_but_cycles costs Config.cycleCost i s 0#64⟩
  case pastTop =>
    intro costs i s hpc
    rw [exec_eq_execWith, execWith_faults hpc, execWith_faults hpc]

end Sys2Proof.Machine
end

section
/-! What an instruction writes and what it leaves unchanged (spec/10_state.md R22, R34, R35): one case analysis over the 64
instructions, in the vocabulary of the access tables, from which every frame follows. -/

namespace Sys2Proof.Machine

open Sys2Proof.Claims

/-! ## The shapes of the writes -/

/-- The lanes of a slot (10_state.md R12). -/
def lanesOf : Slot → List Lane
  | .af => [.a, .f]
  | .bc => [.b, .c]
  | .de => [.d, .e]
  | .hl => [.h, .l]
  | .sp | .pc => []

theorem mem_lanesOf_lanePair (ln : Lane) : ln ∈ lanesOf (lanePair ln) := by
  cases ln <;> decide

/-- `Effect i s w`: from `s`, `w` is left by writes that the access tables R34 and R35 and the stores of R57 give to
`i`. -/
inductive Effect (i : Instr) (s : State) : State → Prop
  | nothing : Effect i s s
  | halt (hi : i = .halt) : Effect i s { s with status := .halted s.pc }
  | slot (sl : Slot) (v : Word) (haf : sl ≠ .af) (hlanes : lanesWritten i = lanesOf sl)
      (hsp : writesSp i = (sl == .sp)) : Effect i s (s.writeU16 sl v)
  | store (a : Word) (v : Byte) (ha : storesTo i s = some a) : Effect i s (s.memWrite a v)
  | lane (ln : Lane) (v : Byte) (hf : ln ≠ .f) (hlanes : lanesWritten i = [ln]) : Effect i s (s.writeU8 ln v)
  | alu (ln : Lane) (o : AluOut) (hf : ln ≠ .f) (hlanes : lanesWritten i = [ln]) (hznh : writesZNH i = true) :
      Effect i s (s.writeAlu ln o)
  | shift (ln : Lane) (v : Byte) (z n h c : Bool) (hf : ln ≠ .f) (hlanes : lanesWritten i = [ln])
      (hcarry : writesCarry i = true) : Effect i s ((s.writeU8 ln v).writeZNHC z n h c)

@[simp] theorem jumpIf_written (length : Nat) (cc : Cond) (n : Word) (s : State) :
    (jumpIf length cc n s).written = s := by
  rw [jumpIf]
  split <;> rfl

/-- The one case analysis over the instructions: each writes through the ports its row of the access tables names. -/
theorem actionOf_effect (i : Instr) (s : State) : Effect i s (actionOf i s).written := by
  cases i with
  | nop | jpA16 n => exact .nothing
  | jpNzA16 n | jpZA16 n | jpNcA16 n | jpCA16 n =>
    exact (jumpIf_written 3 _ n s).symm ▸ Effect.nothing
  | halt => exact .halt rfl
  | ldBcD16 n | incBc | decBc => exact .slot .bc _ (by decide) rfl rfl
  | ldDeD16 n | incDe | decDe => exact .slot .de _ (by decide) rfl rfl
  | ldHlD16 n | incHl | decHl => exact .slot .hl _ (by decide) rfl rfl
  | ldSpD16 n | incSp | decSp => exact .slot .sp _ (by decide) rfl rfl
  | ldIndBcA | ldIndDeA => exact .store _ _ rfl
  | ldIndHlB | ldIndHlC | ldIndHlD | ldIndHlE | ldIndHlH | ldIndHlL | ldIndHlA => exact .store _ _ rfl
  | ldBD8 n => exact .lane .b n (by decide) rfl
  | ldCD8 n => exact .lane .c n (by decide) rfl
  | ldDD8 n => exact .lane .d n (by decide) rfl
  | ldED8 n => exact .lane .e n (by decide) rfl
  | ldHD8 n => exact .lane .h n (by decide) rfl
  | ldLD8 n => exact .lane .l n (by decide) rfl
  | ldAD8 n => exact .lane .a n (by decide) rfl
  | incB | incC | incD | incE | incH | incL | incA => exact .alu _ _ (by decide) rfl rfl
  | decB | decC | decD | decE | decH | decL | decA => exact .alu _ _ (by decide) rfl rfl
  | rrca => exact .shift _ _ _ _ _ _ (by decide) rfl rfl
  | rrcB | rrcC | rrcD | rrcE | rrcH | rrcL | rrcA => exact .shift _ _ _ _ _ _ (by decide) rfl rfl
  | srlB | srlC | srlD | srlE | srlH | srlL | srlA => exact .shift _ _ _ _ _ _ (by decide) rfl rfl

/-! ## The frame of each shape -/

theorem Effect.lowNibble {i : Instr} {s w : State} (h : Effect i s w) : SameLowNibble s w := by
  cases h with
  | nothing | halt => rfl
  | slot sl v haf => rw [SameLowNibble, s.readU8_writeU16_other sl v .f haf.symm]
  | store a v => rw [SameLowNibble, State.readU8_memWrite]
  | lane ln v hf => exact s.lowNibble_writeU8 ln v hf
  | alu ln o hf => exact s.lowNibble_writeAlu ln o hf
  | shift ln v z n h c hf => rw [SameLowNibble, State.lowNibble_writeZNHC, s.lowNibble_writeU8 ln v hf]

theorem Effect.mem_wf {i : Instr} {s w : State} (h : Effect i s w) (hs : Memory.wf s.mem = true) :
    Memory.wf w.mem = true := by
  cases h with
  | nothing | halt => exact hs
  | slot | lane | alu | shift => simpa using hs
  | store a v => exact Memory.wf_write s.mem a.toNat v hs a.isLt

theorem Effect.readU8 {i : Instr} {s w : State} {ln : Lane} (h : Effect i s w) (hf : ln ≠ .f)
    (hln : ln ∉ lanesWritten i) : w.readU8 ln = s.readU8 ln := by
  cases h with
  | nothing => rfl
  | halt => cases ln <;> rfl
  | slot sl v haf hlanes =>
    have hpair : lanePair ln ≠ sl := fun h => hln (hlanes ▸ h ▸ mem_lanesOf_lanePair ln)
    exact s.readU8_writeU16_other sl v ln hpair
  | store a v => exact s.readU8_memWrite a v ln
  | lane ln' v _ hlanes =>
    exact s.readU8_writeU8_other ln' ln v (by simpa [hlanes] using hln)
  | alu ln' o _ hlanes =>
    rw [s.readU8_writeAlu ln' ln o hf, if_neg (by simpa [hlanes] using hln)]
  | shift ln' v z n h c _ hlanes =>
    rw [State.readU8_writeZNHC _ z n h c ln hf, s.readU8_writeU8_other ln' ln v (by simpa [hlanes] using hln)]

theorem Effect.sp {i : Instr} {s w : State} (h : Effect i s w) (hi : writesSp i = false) : w.sp = s.sp := by
  cases h with
  | nothing | halt => rfl
  | slot sl v _ _ hsp =>
    have hsl : Slot.sp ≠ sl := by rintro rfl; simp [hsp] at hi
    exact s.readU16_writeU16_other sl .sp v hsl
  | store | lane | alu | shift => simp

theorem Effect.carry {i : Instr} {s w : State} (h : Effect i s w) (hi : writesCarry i = false) :
    w.readFlag .c = s.readFlag .c := by
  cases h with
  | nothing | halt => rfl
  | slot sl v haf => exact s.readFlag_writeU16 sl v .c haf
  | store a v => exact s.readFlag_memWrite a v .c
  | lane ln v hf => exact s.readFlag_writeU8 ln v .c hf
  | alu ln o hf => exact s.readFlag_writeAlu_carry ln o hf
  | shift ln v z n h c _ _ hcarry => simp [hcarry] at hi

/-- An instruction that writes Carry writes the other three flags too (10_state.md R35). -/
theorem writesZNH_of_writesCarry {i : Instr} (h : writesCarry i = true) : writesZNH i = true := by
  unfold writesZNH
  split <;> simp only [h]

/-- Carry included: an instruction that writes none of Z, N and H writes no flag. -/
theorem Effect.readFlag {i : Instr} {s w : State} (h : Effect i s w) (hi : writesZNH i = false) (g : Flag) :
    w.readFlag g = s.readFlag g := by
  cases h with
  | nothing | halt => rfl
  | slot sl v haf => exact s.readFlag_writeU16 sl v g haf
  | store a v => exact s.readFlag_memWrite a v g
  | lane ln v hf => exact s.readFlag_writeU8 ln v g hf
  | alu ln o _ _ hznh => simp [hznh] at hi
  | shift ln v z n h c _ _ hcarry => simp [writesZNH_of_writesCarry hcarry] at hi

/-! ## The frame of an execution -/

@[simp] theorem State.readU8_raise (s : State) (info : EngineFault) (ln : Lane) :
    (s.raise info).readU8 ln = s.readU8 ln := by cases ln <;> rfl
@[simp] theorem State.readFlag_raise (s : State) (info : EngineFault) (g : Flag) :
    (s.raise info).readFlag g = s.readFlag g := rfl

/-- What an execution answers reads, in every lane and flag, in SP and in memory, as the state before it or as a state that
the instruction writes through its own ports. -/
theorem exec_next_effect {i : Instr} {s t : State} (h : exec i s = .next t) :
    ∃ w, Effect i s w ∧ (∀ ln, t.readU8 ln = w.readU8 ln) ∧ (∀ g, t.readFlag g = w.readFlag g) ∧ t.sp = w.sp ∧
      t.mem = w.mem := by
  obtain ⟨-, rfl⟩ | ⟨-, -, rfl⟩ := exec_next_cases h
  · exact ⟨s, .nothing, s.readU8_raise _, s.readFlag_raise _, rfl, rfl⟩
  · exact ⟨_, actionOf_effect i s, Action.done_readU8 _ _ _, Action.done_readFlag _ _ _, rfl, rfl⟩

theorem exec_lowNibble {i : Instr} {s t : State} (h : exec i s = .next t) : SameLowNibble s t := by
  obtain ⟨w, hw, hlanes, -⟩ := exec_next_effect h
  rw [SameLowNibble, hlanes, hw.lowNibble]

theorem exec_mem_wf {i : Instr} {s t : State} (h : exec i s = .next t) (hs : Memory.wf s.mem = true) :
    Memory.wf t.mem = true := by
  obtain ⟨w, hw, -, -, -, hmem⟩ := exec_next_effect h
  exact hmem ▸ hw.mem_wf hs

/-- Settles O27, from the shapes of the writes. -/
theorem registerFrame : Obligations.RegisterFrame := by
  intro i s t h
  obtain ⟨w, hw, hlanes, -, hsp, -⟩ := exec_next_effect h
  exact ⟨fun ln hf hln => (hlanes ln).trans (hw.readU8 hf hln), fun hi => hsp.trans (hw.sp hi), exec_lowNibble h⟩

/-- Settles O28, from the shapes of the writes. -/
theorem flagFrame : Obligations.FlagFrame := by
  intro i s t h
  obtain ⟨w, hw, -, hflags, -⟩ := exec_next_effect h
  have keeps (hi : writesZNH i = false) (g : Flag) : t.readFlag g = s.readFlag g :=
    (hflags g).trans (hw.readFlag hi g)
  exact ⟨fun hi => (hflags .c).trans (hw.carry hi), fun hi => ⟨keeps hi .z, keeps hi .n, keeps hi .h⟩⟩

end Sys2Proof.Machine
end

section
/-! The invariant (spec/10_state.md R21; 20_memory.md R40, R42; log entry 5 for the form of memory): it holds after every load
and every step keeps it, so it holds of every reachable state. A memory in canonical form is determined by its bytes. -/

namespace Sys2Proof.Machine

open Sys2Proof.Claims

/-- Settles O49. A step raises a fault, which changes the status alone, or executes an instruction. -/
theorem stepKeepsInvariant : Obligations.StepKeepsInvariant := by
  intro s t hs h
  obtain ⟨-, ⟨i, -, hexec⟩ | ⟨info, -, rfl⟩⟩ := step_cases h
  · obtain ⟨hmem, hlow⟩ := hs
    exact ⟨exec_mem_wf hexec hmem, (exec_lowNibble hexec).trans hlow⟩
  · exact hs

/-! ## What a load leaves -/

/-- The one spec lemma of `load`. -/
theorem load_eq_loaded_iff {image : List Byte} {s : State} :
    load image = .loaded s ↔
      image.length ≤ Config.memSize ∧ s = { State.reset with mem := Memory.ofImage Config.loadOrigin image } := by
  rw [load, imageLengthOk]
  by_cases h : image.length ≤ Config.memSize
  · simp [h, eq_comm]
  · simp [h]

/-- The bytes of a loaded image, and 0x00 beyond them. -/
theorem Memory.read_ofImage_loadOrigin (image : List Byte) (a : Nat) :
    Memory.read (Memory.ofImage Config.loadOrigin image) a = image.getD a 0#8 := by
  simpa [Config.loadOrigin] using Memory.read_ofImage image 0 a

theorem State.reset_readFlag (g : Flag) : State.reset.readFlag g = false := by
  cases g <;> decide

theorem State.reset_lowNibbleZero : State.reset.lowNibbleZero := by decide

theorem inv_of_load {image : List Byte} {s : State} (h : load image = .loaded s) : s.inv := by
  obtain ⟨hlen, rfl⟩ := load_eq_loaded_iff.mp h
  exact ⟨Memory.wfFrom_ofImage image 0 (by omega), State.reset_lowNibbleZero⟩

/-- Settles O2: `load` leaves State.reset but for memory, and memory reads as the image. -/
theorem loadLeavesResetState : Obligations.LoadLeavesResetState := by
  intro image hlen
  refine ⟨_, load_eq_loaded_iff.mpr ⟨hlen, rfl⟩, rfl, rfl, rfl, rfl, rfl, rfl, rfl, rfl, State.reset_readFlag,
    fun a h => ?_, fun a h _ => ?_⟩
  · rw [Memory.read_ofImage_loadOrigin, List.getD_eq_getElem image 0#8 h]
  · rw [Memory.read_ofImage_loadOrigin, List.getD_eq_default image 0#8 h]

/-- Settles O1: every field of State.reset is its literal. -/
theorem resetState : Obligations.ResetState :=
  ⟨rfl, rfl, rfl, rfl, rfl, rfl, rfl, rfl, Memory.read_nil, rfl⟩

/-- Settles O48: State.reset is the load of the empty image. -/
theorem resetMeetsInvariant : Obligations.ResetMeetsInvariant :=
  ⟨inv_of_load (image := []) rfl, fun _ _ => inv_of_load⟩

/-! ## What every reachable state meets -/

theorem Reachable.inv {s : State} (h : Reachable s) : s.inv := by
  induction h with
  | load h => exact inv_of_load h
  | step _ h ih => exact stepKeepsInvariant _ _ ih h

/-- Settles O50: the first clause from the invariant, the others from the laws of the ports. -/
theorem lowNibbleZeroWhenReachable : Obligations.LowNibbleZeroWhenReachable :=
  ⟨fun _ h => h.inv.2, fun s g b => s.lowNibble_writeFlag g b, fun s v => s.readU16_writeU16_same .af v,
    fun s v => s.readU8_writeU8_same .f v⟩

/-! ## Canonical memories are determined by what they read -/

/-- Below its first address a canonical memory reads 0x00. -/
theorem Memory.read_of_lt_wfFrom {lo a : Nat} {m : Memory} (h : Memory.wfFrom lo m = true) (ha : a < lo) :
    Memory.read m a = 0#8 := by
  induction m generalizing lo with
  | nil => rfl
  | cons c m ih =>
    obtain ⟨b, w⟩ := c
    obtain ⟨hb, -, -, hm⟩ := (Memory.wfFrom_cons lo b w m).mp h
    rw [Memory.read, if_neg (by omega), ih hm (by omega)]

theorem Memory.read_cons_self (b : Nat) (w : Byte) (m : Memory) : Memory.read ((b, w) :: m) b = w := by
  simp [Memory.read]

/-- The first cell of a canonical memory is seen: a memory that reads alike does not begin above it. -/
theorem Memory.not_wfFrom_of_read_eq {lo b : Nat} {w : Byte} {m m' : Memory}
    (h : Memory.wfFrom lo ((b, w) :: m) = true)
    (hread : ∀ a, a < Config.memSize → Memory.read ((b, w) :: m) a = Memory.read m' a) :
    ¬ Memory.wfFrom (b + 1) m' = true := by
  intro h'
  obtain ⟨-, hlt, hw, -⟩ := (Memory.wfFrom_cons lo b w m).mp h
  have hb := hread b hlt
  rw [Memory.read_cons_self, Memory.read_of_lt_wfFrom h' (Nat.lt_succ_self b)] at hb
  exact hw hb

/-- Canonical memories with a first cell at the same address read alike behind it if they read alike. -/
theorem Memory.read_eq_of_read_cons_eq {b : Nat} {w w' : Byte} {m m' : Memory}
    (h : Memory.wfFrom (b + 1) m = true) (h' : Memory.wfFrom (b + 1) m' = true)
    (hread : ∀ a, a < Config.memSize → Memory.read ((b, w) :: m) a = Memory.read ((b, w') :: m') a) (a : Nat)
    (ha : a < Config.memSize) : Memory.read m a = Memory.read m' a := by
  obtain hle | hgt := Nat.lt_or_ge a (b + 1)
  · rw [Memory.read_of_lt_wfFrom h hle, Memory.read_of_lt_wfFrom h' hle]
  · simpa only [Memory.read, if_neg (show ¬ a = b by omega)] using hread a ha

theorem Memory.eq_of_read_eq_wfFrom {lo : Nat} {m m' : Memory} (h : Memory.wfFrom lo m = true)
    (h' : Memory.wfFrom lo m' = true)
    (hread : ∀ a, a < Config.memSize → Memory.read m a = Memory.read m' a) : m = m' := by
  have hread' (a : Nat) (ha : a < Config.memSize) : Memory.read m' a = Memory.read m a := (hread a ha).symm
  induction m generalizing lo m' with
  | nil =>
    cases m' with
    | nil => rfl
    | cons c m' => exact absurd rfl (Memory.not_wfFrom_of_read_eq h' hread')
  | cons c m ih =>
    cases m' with
    | nil => exact absurd rfl (Memory.not_wfFrom_of_read_eq h hread)
    | cons c' m' =>
      obtain ⟨b, w⟩ := c
      obtain ⟨b', w'⟩ := c'
      obtain ⟨-, hlt, hw, hm⟩ := (Memory.wfFrom_cons lo b w m).mp h
      obtain ⟨-, hlt', hw', hm'⟩ := (Memory.wfFrom_cons lo b' w' m').mp h'
      obtain hb | rfl | hb := Nat.lt_trichotomy b b'
      · exact absurd ((Memory.wfFrom_cons _ b' w' m').mpr ⟨hb, hlt', hw', hm'⟩)
          (Memory.not_wfFrom_of_read_eq h hread)
      · have hhead : w = w' := by simpa only [Memory.read_cons_self] using hread b hlt
        have htail := Memory.read_eq_of_read_cons_eq hm hm' hread
        rw [hhead, ih hm hm' htail fun a ha => (htail a ha).symm]
      · exact absurd ((Memory.wfFrom_cons _ b w m).mpr ⟨hb, hlt, hw, hm⟩)
          (Memory.not_wfFrom_of_read_eq h' hread')

/-- Settles O8, by induction on both lists. -/
theorem canonicalMemoryIsUnique : Obligations.CanonicalMemoryIsUnique :=
  ⟨fun _ _ => Memory.eq_of_read_eq_wfFrom, Memory.wf_write⟩

/-- Settles O53: the invariant makes O8 apply to every reachable memory. -/
theorem reachableMemoryIsItsBytes : Obligations.ReachableMemoryIsItsBytes := by
  have wf (s : State) (h : Reachable s) : Memory.wf s.mem = true := h.inv.1
  exact ⟨wf, fun s t hs ht => canonicalMemoryIsUnique.1 t.mem s.mem (wf t ht) (wf s hs)⟩

end Sys2Proof.Machine
end

section
/-! The bytes a decoded instruction takes (spec/30_encoding.md R65 to R71). -/

namespace Sys2Proof

/-- The instructions of a primary entry have the length of the entry's format: the opcode and the operand bytes. -/
def Entry.LengthOk : Entry → Prop
  | .op i => i.length = 1
  | .opD8 f => ∀ n, (f n).length = 2
  | .opD16 f => ∀ n, (f n).length = 3

theorem primaryTable_lengthOk : ∀ p ∈ primaryTable, p.2.LengthOk := by
  simp only [primaryTable, primaryRows0, primaryRows1, primaryRows2, primaryRows3, primaryRows7, primaryRowsJump,
    List.forall_mem_append, List.forall_mem_cons]
  simp [Entry.LengthOk, Instr.length, Instr.format, Format.length]

theorem secondaryTable_length : ∀ p ∈ secondaryTable, p.2.length = 2 := by decide

theorem mem_of_lookup_eq_some {β : Type} {table : List (Byte × β)} {b : Byte} {e : β} (h : table.lookup b = some e) :
    (b, e) ∈ table := by
  obtain ⟨before, after, rfl, -⟩ := List.lookup_eq_some_iff.mp h
  simp

theorem decodeOperands_length {e : Entry} {bs rest : List Byte} {i : Instr} (he : e.LengthOk)
    (h : decodeOperands e bs = .ok i rest) : bs.length + 1 = i.length + rest.length := by
  match e, bs with
  | .op j, bs =>
    cases h
    have hlen : i.length = 1 := he
    omega
  | .opD8 f, n :: bs =>
    cases h
    have hlen : (f n).length = 2 := he n
    rw [hlen, List.length_cons]
    omega
  | .opD16 f, lo :: hi :: bs =>
    cases h
    have hlen : (f (imm16 lo hi)).length = 3 := he _
    rw [hlen, List.length_cons, List.length_cons]
    omega

theorem decodeSecondary_length {bs rest : List Byte} {i : Instr} (h : decodeSecondary bs = .ok i rest) :
    bs.length + 1 = i.length + rest.length := by
  cases bs with
  | nil => cases h
  | cons subop bs =>
    rw [decodeSecondary] at h
    split at h
    next hl =>
      cases h
      rw [secondaryTable_length _ (mem_of_lookup_eq_some hl), List.length_cons]
      omega
    next => cases h

/-- Decoding an instruction consumes as many bytes as its declared length (30_encoding.md R71). -/
theorem decode_length {bs rest : List Byte} {i : Instr} (h : decode bs = .ok i rest) :
    bs.length = i.length + rest.length := by
  cases bs with
  | nil => cases h
  | cons opcode bs =>
    rw [decode] at h
    split at h
    next => exact decodeSecondary_length h
    next =>
      split at h
      next hl => exact decodeOperands_length (primaryTable_lengthOk _ (mem_of_lookup_eq_some hl)) h
      next => cases h

end Sys2Proof
end

section
/-! The outcome of an execution by next PC and counter (spec/10_state.md R24, R25, R28; 30_encoding.md R73), and of a step. -/

namespace Sys2Proof.Machine

open Sys2Proof.Claims

/-! ## The three outcomes of an execution -/

theorem nextPc_lt (i : Instr) (s : State) : nextPc i s < 2 ^ 17 :=
  actionOf_nextPc_toNat i s ▸ (actionOf i s).nextPc.isLt

theorem actionOf_nextPc (i : Instr) (s : State) : (actionOf i s).nextPc = BitVec.ofNat 17 (nextPc i s) := by
  rw [← actionOf_nextPc_toNat, BitVec.ofNat_toNat, BitVec.setWidth_eq]

theorem actionOf_status (i : Instr) (s : State) :
    (actionOf i s).written.status = if i = .halt then .halted s.pc else s.status := by
  cases i with
  | jpNzA16 n | jpZA16 n | jpNcA16 n | jpCA16 n => exact congrArg State.status (jumpIf_written 3 _ n s)
  | _ => rfl

/-- Execution answers a next-PC fault, a completed instruction or the overflow refusal, and nothing else. -/
theorem exec_outcomes (i : Instr) (s : State) :
    (0x10000 ≤ nextPc i s ∧ exec i s = .next ((actionOf i s).offTheTop s)) ∨
    (nextPc i s < 0x10000 ∧ s.cycles.toNat + Config.cycleCost (costOf i s) < 2 ^ 64 ∧
      exec i s = .next ((actionOf i s).done Config.cycleCost s)) ∨
    (nextPc i s < 0x10000 ∧ 2 ^ 64 ≤ s.cycles.toNat + Config.cycleCost (costOf i s) ∧
      exec i s = .refused .cycleCounterOverflow) := by
  rw [exec_eq_execWith]
  obtain hpc | hpc := Nat.lt_or_ge (nextPc i s) 0x10000
  · obtain hc | hc := Nat.lt_or_ge (s.cycles.toNat + Config.cycleCost (costOf i s)) (2 ^ 64)
    · exact .inr (.inl ⟨hpc, hc, execWith_completes hpc hc⟩)
    · exact .inr (.inr ⟨hpc, hc, execWith_refuses hpc hc⟩)
  · exact .inl ⟨hpc, execWith_faults hpc⟩

theorem exec_faults {i : Instr} {s : State} (hpc : 0x10000 ≤ nextPc i s) :
    exec i s =
      .next (s.raise (.outOfRange s.pc (s.mem.read s.pc.toNat) .nextPc (BitVec.ofNat 17 (nextPc i s)))) := by
  rw [exec_eq_execWith, execWith_faults hpc, Action.offTheTop, actionOf_nextPc]
  rfl

/-- Settles O26: the overflow refusal is the third of the three outcomes. -/
theorem counterOverflowRefused : Obligations.CounterOverflowRefused := by
  refine ⟨fun i s hpc hc => exec_eq_execWith i s ▸ execWith_refuses hpc hc, fun i s r h => ?refused,
    fun i s r h => ?fault⟩
  case refused =>
    obtain ⟨-, he⟩ | ⟨-, -, he⟩ | ⟨hpc, hc, he⟩ := exec_outcomes i s
    · cases he.symm.trans h
    · cases he.symm.trans h
    · cases he.symm.trans h
      exact ⟨rfl, hpc, hc⟩
  case fault =>
    obtain ⟨-, he⟩ | ⟨-, -, he⟩ | ⟨-, -, he⟩ := exec_outcomes i s <;> cases he.symm.trans h

/-! ## Next PCs past the top of memory -/

theorem nextPc_jpCcA16 (cc : Cond) (n : Word) (s : State) :
    nextPc (.jpCcA16 cc n) s = if holds s cc then n.toNat else s.pc.toNat + 3 := by
  cases cc <;> rfl

theorem nextPc_jpCcA16_lt {cc : Cond} {s : State} (n : Word) (h : holds s cc = true) :
    nextPc (.jpCcA16 cc n) s < 0x10000 := by
  rw [nextPc_jpCcA16, if_pos h]
  exact n.isLt

theorem nextPc_jpCcA16_of_past_top {cc : Cond} {n : Word} {s : State} (h : 0x10000 ≤ nextPc (.jpCcA16 cc n) s) :
    nextPc (.jpCcA16 cc n) s = s.pc.toNat + 3 := by
  have hcc : ¬ holds s cc = true := fun hcc => absurd h (Nat.not_le.mpr (nextPc_jpCcA16_lt n hcc))
  rw [nextPc_jpCcA16, if_neg hcc]

/-- A next PC is past the top of memory only where the instruction falls through (10_state.md R25). -/
theorem nextPc_eq_of_past_top {i : Instr} {s : State} (h : 0x10000 ≤ nextPc i s) :
    nextPc i s = s.pc.toNat + i.length := by
  cases i with
  | jpA16 n => exact absurd h (Nat.not_le.mpr n.isLt)
  | jpNzA16 n => exact nextPc_jpCcA16_of_past_top (cc := .nz) h
  | jpZA16 n => exact nextPc_jpCcA16_of_past_top (cc := .z) h
  | jpNcA16 n => exact nextPc_jpCcA16_of_past_top (cc := .nc) h
  | jpCA16 n => exact nextPc_jpCcA16_of_past_top (cc := .c) h
  | _ => rfl

/-- Settles O23: the next PC of the action is that of the table of R24, in 17 bits. -/
theorem nextPcPastTopFaults : Obligations.NextPcPastTopFaults :=
  ⟨fun _ _ => exec_faults, nextPc_lt, fun n _ => n.isLt⟩

theorem State.fetchBytes_length_le (s : State) : s.pc.toNat + s.fetchBytes.length ≤ 0x10000 := by
  have hpc := s.pc.isLt
  rw [s.fetchBytes_eq]
  split
  next h => exact h
  next =>
    split
    next h => exact h
    next => exact hpc

/-- An instruction that is fetched whole ends at or below the top of memory. -/
theorem pc_add_length_le_of_decode {s : State} {i : Instr} {rest : List Byte}
    (h : decode s.fetchBytes = .ok i rest) : s.pc.toNat + i.length ≤ 0x10000 := by
  have := s.fetchBytes_length_le
  have := decode_length h
  omega

/-- Settles O51. An instruction is fetched whole, so a fall-through ends at 0x10000 at the latest. -/
theorem stepNextPcPastTopFaults : Obligations.StepNextPcPastTopFaults := by
  refine ⟨State.fallThrough_toNat, fun s i rest hrun hd hpc => ?_, fun n _ => n.isLt,
    fun _ n _ => nextPc_jpCcA16_lt n⟩
  have htop : nextPc i s = 0x10000 :=
    Nat.le_antisymm (nextPc_eq_of_past_top hpc ▸ pc_add_length_le_of_decode hd) hpc
  refine ⟨htop, ?_⟩
  rw [step, stepUsing_of_decode hrun hd, exec_faults hpc, htop]

/-! ## PC, counter and status of a step -/

theorem exec_cycles_le {i : Instr} {s t : State} (h : exec i s = .next t) : s.cycles.toNat ≤ t.cycles.toNat := by
  obtain ⟨-, he⟩ | ⟨-, hc, he⟩ | ⟨-, -, he⟩ := exec_outcomes i s <;> cases he.symm.trans h
  · exact Nat.le_refl _
  · exact actionOf_done_cycles_toNat hc ▸ Nat.le_add_right _ _

/-- In a Running state an execution that ends in a fault has raised it and done nothing else. -/
theorem exec_eq_raise_of_faulted {i : Instr} {s t : State} {info : EngineFault} (hrun : s.status = .running)
    (h : exec i s = .next t) (ht : t.status = .faulted info) : t = s.raise info := by
  obtain ⟨-, he⟩ | ⟨-, -, he⟩ | ⟨-, -, he⟩ := exec_outcomes i s <;> cases he.symm.trans h
  · cases ht
    rfl
  · rw [Action.done_status, actionOf_status, hrun] at ht
    split at ht <;> cases ht

/-- A step that ends in a fault has raised it and done nothing else (60_exceptions.md R203). -/
theorem step_eq_raise_of_faulted {s t : State} {info : EngineFault} (h : step s = .next t)
    (ht : t.status = .faulted info) : t = s.raise info := by
  obtain ⟨hrun, ⟨i, -, hexec⟩ | ⟨info', -, rfl⟩⟩ := step_cases h
  · exact exec_eq_raise_of_faulted hrun hexec ht
  · cases ht
    rfl

theorem step_cycles_le {s t : State} (h : step s = .next t) : s.cycles.toNat ≤ t.cycles.toNat := by
  obtain ⟨-, ⟨i, -, hexec⟩ | ⟨info, -, rfl⟩⟩ := step_cases h
  · exact exec_cycles_le hexec
  · exact Nat.le_refl _

/-- Settles O25: completion is the second of the three outcomes; a fault leaves the counter alone. -/
theorem everyInstructionCompletes : Obligations.EveryInstructionCompletes := by
  refine ⟨fun i s hpc hc => ?completes, fun _ _ => step_cycles_le, fun s t info h ht => ?faulted⟩
  case completes =>
    exact ⟨_, exec_eq_execWith i s ▸ execWith_completes hpc hc, actionOf_done_pc_toNat hpc,
      actionOf_done_cycles_toNat hc, actionOf_status i s⟩
  case faulted => rw [step_eq_raise_of_faulted h ht, State.raise_cycles]

/-! ## Where no step is enabled -/

theorem runUsing_of_ended {next : State → Host.Outcome State Fault Refusal} {s : State} (fuel : Nat)
    (h : s.ended) : runUsing next fuel s = .next s := by
  cases fuel with
  | zero => rfl
  | succ fuel => rw [runUsing, if_neg h]

/-- Settles O17, from the branches of `step` and of the run loop for a status that is not Running. -/
theorem noStepUnlessRunning : Obligations.NoStepUnlessRunning := by
  refine ⟨fun s addr h => ?_, fun s info h => ?_, fun s fuel h => runUsing_of_ended fuel h⟩
  all_goals simp only [step, stepUsing, h]

end Sys2Proof.Machine
end

section
/-! The six ports of the Register File (spec/10_state.md R13 to R20). -/

namespace Sys2Proof.Machine

open Sys2Proof.Claims

/-- Settles O4, from the laws of the ports over slots. -/
theorem slotPorts : Obligations.SlotPorts := fun s sl v =>
  ⟨s.readU16_writeU16_same sl v, fun sl' => s.readU16_writeU16_other sl sl' v, s.writeU16_mem sl v,
    s.writeU16_cycles sl v, s.writeU16_status sl v, rfl, rfl, rfl, rfl, rfl, rfl⟩

/-- A lane is bits 15:8 or bits 7:0 of its pair (R15). -/
theorem State.readU8_eq_extractLsb' (s : State) (ln : Lane) :
    s.readU8 ln = if laneIsHigh ln then (s.readU16 (lanePair ln)).extractLsb' 8 8
      else (s.readU16 (lanePair ln)).extractLsb' 0 8 := by
  rw [← highLane_eq, ← lowLane_eq, State.readU8]

/-- The pair of a lane after a lane write, by the formulas of R16. -/
theorem State.readU16_lanePair_writeU8 (s : State) (ln : Lane) (v : Byte) :
    (s.writeU8 ln v).readU16 (lanePair ln) =
      if laneIsHigh ln then withHighLane (s.readU16 (lanePair ln)) v
      else withLowLane (s.readU16 (lanePair ln)) v :=
  s.readU16_writeU16_same (lanePair ln) _

/-- Settles O5, from the laws of the ports over lanes. -/
theorem lanePorts : Obligations.LanePorts := by
  refine ⟨fun s => ⟨?_, ?_, ?_, ?_⟩, State.readU8_eq_extractLsb', fun s ln v => ⟨s.readU16_lanePair_writeU8 ln v,
    s.readU8_writeU8_same ln v, fun ln' => s.readU8_writeU8_other ln ln' v, fun sl hsl => ?other, s.writeU8_mem ln v,
    s.writeU8_cycles ln v, s.writeU8_status ln v⟩⟩
  case other => rw [s.readU16_writeU8 ln v sl, if_neg hsl]
  all_goals exact (high_append_low _).symm

theorem flagMask_eq_shiftLeft (g : Flag) : flagMask g = 0x0010#16 <<< (flagBit g - 4) := by
  cases g <;> rfl

theorem State.readU16_writeFlag_other (s : State) (g : Flag) (b : Bool) {sl : Slot} (h : sl ≠ .af) :
    (s.writeFlag g b).readU16 sl = s.readU16 sl :=
  s.readU16_writeU16_other .af sl _ h

/-- Settles O6, from the laws of the ports over flags. -/
theorem flagPorts : Obligations.FlagPorts := by
  refine ⟨fun s => ⟨rfl, rfl, rfl, rfl⟩, fun s g b => ⟨s.readFlag_writeFlag_same g b, ?mask,
    fun g' => s.readFlag_writeFlag_other g g' b, s.lowNibble_writeFlag g b, fun ln => s.readU8_writeFlag g b ln,
    fun sl => s.readU16_writeFlag_other g b, s.writeFlag_mem g b, s.writeFlag_cycles g b, s.writeFlag_status g b⟩⟩
  case mask => rw [← flagMask_eq_shiftLeft, State.writeFlag]

end Sys2Proof.Machine
end

section
/-! The memory accesses (spec/20_memory.md R41, R42, R47, R50, R57): what a read answers and what a write changes, the accesses
that are out of range, and the byte a store form changes. -/

namespace Sys2Proof.Machine

open Sys2Proof.Claims

/-! ## Reads and writes -/

/-- A 16-bit address is always in memory (R42, R50). -/
theorem State.memRead_zeroExtend (s : State) (a : Word) : s.memRead (a.zeroExtend 17) = some (s.mem.read a.toNat) := by
  have ha : (a.zeroExtend 17).toNat = a.toNat := BitVec.toNat_setWidth_of_le (by decide)
  rw [State.memRead, ha, if_pos a.isLt]

/-- Settles O7, from the spec lemma of `Memory.write` and the fields a write leaves alone. -/
theorem memoryReadAndWrite : Obligations.MemoryReadAndWrite := by
  refine ⟨fun _ _ => rfl, fun s a v => ⟨a.isLt, ?same, fun b => s.mem.read_write_other a.toNat b v,
    s.readU16_memWrite a v, s.memWrite_cycles a v, s.memWrite_status a v⟩⟩
  case same => rw [State.memRead_zeroExtend, State.memWrite_mem, Memory.read_write_same]

/-! ## Stores -/

/-- The frame of memory: a store changes the byte at its address, every other write changes none (R57). -/
theorem Effect.read_mem {i : Instr} {s w : State} {a : Nat} (h : Effect i s w)
    (ha : ∀ p, storesTo i s = some p → a ≠ p.toNat) : w.mem.read a = s.mem.read a := by
  cases h with
  | nothing | halt => rfl
  | slot | lane | alu | shift => simp
  | store p v hp => exact s.mem.read_write_other p.toNat a v (ha p hp)

/-- Settles O29, from the shapes of the writes. -/
theorem memoryFrame : Obligations.MemoryFrame := by
  intro i s t h a ha
  obtain ⟨w, hw, -, -, -, hmem⟩ := exec_next_effect h
  rw [hmem, hw.read_mem ha]

/-! ## Accesses out of range -/

theorem State.memRead_fallThrough_isNone_iff (s : State) {k : Nat} (h : k ≤ 3) :
    (s.memRead (s.fallThrough k)).isNone = true ↔ 0x10000 ≤ s.pc.toNat + k := by
  rw [s.memRead_fallThrough k h]
  split
  next hin => exact iff_of_false (by simp) (Nat.not_le.mpr hin)
  next hout => exact iff_of_true rfl (Nat.not_lt.mp hout)

/-- At 0xFFFF the opcode byte alone is fetched. -/
theorem State.fetchBytes_of_pc_eq_FFFF {s : State} (h : s.pc = 0xFFFF#16) :
    s.fetchBytes = [s.mem.read s.pc.toNat] := by
  rw [s.fetchBytes_eq, h, if_neg (by decide), if_neg (by decide)]

/-- At 0xFFFE two bytes are fetched. -/
theorem State.fetchBytes_of_pc_eq_FFFE {s : State} (h : s.pc = 0xFFFE#16) :
    s.fetchBytes = [s.mem.read s.pc.toNat, s.mem.read (s.pc.toNat + 1)] := by
  rw [s.fetchBytes_eq, h, if_neg (by decide), if_pos (by decide)]

/-- The primary table gives the opcodes of format `OP_D16` a 16-bit immediate (30_encoding.md R66). -/
theorem decode_d16Opcode {b : Byte} (h : b ∈ d16Opcodes) : ∃ f, ∀ bs, decode (b :: bs) = decodeOperands (.opD16 f) bs := by
  simp only [d16Opcodes, List.mem_cons, List.not_mem_nil, or_false] at h
  obtain rfl | rfl | rfl | rfl | rfl | rfl | rfl | rfl | rfl := h <;> exact ⟨_, fun _ => rfl⟩

/-- Behind the prefix byte and an opcode of format `OP_D8` or `OP_D16` the decoder needs a byte. -/
theorem decode_singleton_of_operand {b : Byte} (h : b = 0xCB#8 ∨ b ∈ d8Opcodes ∨ b ∈ d16Opcodes) :
    decode [b] = .missingByte 1 := by
  have hd8 : ∀ b ∈ d8Opcodes, decode [b] = .missingByte 1 := by decide
  obtain rfl | h | h := h
  · rfl
  · exact hd8 b h
  · obtain ⟨f, hf⟩ := decode_d16Opcode h
    exact hf []

/-- A decoder that misses the byte at 0x10000 makes the step raise `OutOfRange(OperandRead)` there. -/
theorem operandReadFault_of_missingByte {s : State} {k : Nat} (hrun : s.status = .running)
    (hd : decode s.fetchBytes = .missingByte k) (hk : k ≤ 3) (htop : s.pc.toNat + k = 0x10000) :
    OperandReadFault s := by
  have hbad : s.fallThrough k = 0x10000#17 := BitVec.eq_of_toNat_eq ((s.fallThrough_toNat k hk).trans htop)
  rw [OperandReadFault, step_running hrun, State.fetch, hd, ← hbad]
  rfl

/-- Settles O22: the accesses by the range of `pc + k`, the steps by the byte the decoder misses. -/
theorem operandReadsPastTopFault : Obligations.OperandReadsPastTopFault := by
  refine ⟨fun s => ⟨?opcode, ?first, ?second, fun a => by rw [State.memRead_zeroExtend]; rfl⟩,
    fun s hrun hpc hop => ?atFFFF, fun s hrun hpc hop => ?atFFFE⟩
  case opcode => rw [State.pc17, State.memRead_zeroExtend]; rfl
  case first | second =>
    rw [s.memRead_fallThrough_isNone_iff (by decide)]
    bv_omega
  case atFFFF =>
    have hd : decode s.fetchBytes = .missingByte 1 := by
      rw [State.fetchBytes_of_pc_eq_FFFF hpc, decode_singleton_of_operand hop]
    exact operandReadFault_of_missingByte hrun hd (by decide) (by rw [hpc]; rfl)
  case atFFFE =>
    obtain ⟨f, hf⟩ := decode_d16Opcode hop
    have hd : decode s.fetchBytes = .missingByte 2 := by
      rw [State.fetchBytes_of_pc_eq_FFFE hpc, hf]
      rfl
    exact operandReadFault_of_missingByte hrun hd (by decide) (by rw [hpc]; rfl)

end Sys2Proof.Machine
end

section
/-! The decoder against the encoder (spec/30_encoding.md R61, R63, R66, R70): the immediates, the two tables row by row, and
both directions of the round trip. -/

namespace Sys2Proof

/-! ## The two bytes of a 16-bit immediate (R63) -/

theorem imm16_loByte_hiByte (n : Word) : imm16 (loByte n) (hiByte n) = n := by
  rw [imm16, loByte, hiByte, ← Machine.highLane_eq, ← Machine.lowLane_eq, Machine.high_append_low]

theorem loByte_imm16 (lo hi : Byte) : loByte (imm16 lo hi) = lo := BitVec.extractLsb'_append_eq_right

theorem hiByte_imm16 (lo hi : Byte) : hiByte (imm16 lo hi) = hi := BitVec.extractLsb'_append_eq_left

/-! ## The rows of the tables -/

/-- The instructions of a primary entry at an opcode are encoded as the opcode and the operand bytes of the entry's format. -/
def Entry.EncodesAs (opcode : Byte) : Entry → Prop
  | .op i => encode i = [opcode]
  | .opD8 f => ∀ n, encode (f n) = [opcode, n]
  | .opD16 f => ∀ n, encode (f n) = [opcode, loByte n, hiByte n]

theorem primaryTable_encodesAs : ∀ p ∈ primaryTable, p.2.EncodesAs p.1 := by
  simp only [primaryTable, primaryRows0, primaryRows1, primaryRows2, primaryRows3, primaryRows7, primaryRowsJump,
    List.forall_mem_append, List.forall_mem_cons]
  simp [Entry.EncodesAs, encode]

theorem secondaryTable_encode : ∀ p ∈ secondaryTable, encode p.2 = [0xCB#8, p.1] := by decide

/-! ## The round trip -/

/-- Settles O9, form by form: the tables give each opcode its instruction by evaluation, and the two bytes of a 16-bit
immediate make it up again. -/
theorem decodeOfEncode : Obligations.DecodeOfEncode := by
  intro i rest
  cases i with
  | ldBcD16 n | ldDeD16 n | ldHlD16 n | ldSpD16 n | jpNzA16 n | jpA16 n | jpZA16 n | jpNcA16 n | jpCA16 n =>
    exact congrArg (fun j => Decoded.ok j rest) (congrArg _ (imm16_loByte_hiByte n))
  | _ => rfl

theorem encode_of_decodeOperands {opcode : Byte} {e : Entry} {bs rest : List Byte} {i : Instr}
    (he : e.EncodesAs opcode) (h : decodeOperands e bs = .ok i rest) : opcode :: bs = encode i ++ rest := by
  match e, bs with
  | .op j, bs =>
    cases h
    have hi : encode i = [opcode] := he
    rw [hi, List.singleton_append]
  | .opD8 f, n :: bs =>
    cases h
    have hi : encode (f n) = [opcode, n] := he n
    rw [hi]
    rfl
  | .opD16 f, lo :: hi :: bs =>
    cases h
    have hi : encode (f (imm16 lo hi)) = [opcode, loByte (imm16 lo hi), hiByte (imm16 lo hi)] := he _
    rw [hi, loByte_imm16, hiByte_imm16]
    rfl

theorem encode_of_decodeSecondary {bs rest : List Byte} {i : Instr} (h : decodeSecondary bs = .ok i rest) :
    0xCB#8 :: bs = encode i ++ rest := by
  cases bs with
  | nil => cases h
  | cons subop bs =>
    rw [decodeSecondary] at h
    split at h
    next hl =>
      cases h
      rw [secondaryTable_encode _ (mem_of_lookup_eq_some hl)]
      rfl
    next => cases h

/-- Settles O10: an instruction comes from a row of one of the tables, and each row encodes as its opcode bytes. -/
theorem encodeOfDecode : Obligations.EncodeOfDecode := by
  intro bs rest i h
  cases bs with
  | nil => cases h
  | cons opcode bs =>
    rw [decode] at h
    split at h
    next hcb => exact hcb ▸ encode_of_decodeSecondary h
    next =>
      split at h
      next hl => exact encode_of_decodeOperands (primaryTable_encodesAs _ (mem_of_lookup_eq_some hl)) h
      next => cases h

/-- An encoding has the declared length (R71). -/
theorem encode_length (i : Instr) : (encode i).length = i.length := by
  simpa using decode_length (decodeOfEncode i [])

/-- Settles O11: the decoder runs on the thirteen words. -/
theorem workedEncodingsDecode : Obligations.WorkedEncodingsDecode := by
  unfold Obligations.WorkedEncodingsDecode
  decide

end Sys2Proof
end

section
/-! The bytes a step fetches and the instruction it runs (spec/30_encoding.md R64, R65, R78, R79). -/

namespace Sys2Proof.Machine

open Sys2Proof.Claims

/-- The spec of `fetchBytes` byte by byte: the byte at `pc + k` for `k` up to 2, where that address is in memory. -/
theorem State.fetchBytes_getElem? (s : State) (k : Nat) :
    s.fetchBytes[k]? = if k ≤ 2 ∧ s.pc.toNat + k < 0x10000 then some (s.mem.read (s.pc.toNat + k)) else none := by
  have hpc : s.pc.toNat < 0x10000 := s.pc.isLt
  have hsize : Config.memSize = 0x10000 := rfl
  rw [s.fetchBytes_eq, hsize]
  match k with
  | 0 =>
    rw [if_pos (show 0 ≤ 2 ∧ s.pc.toNat + 0 < 0x10000 from ⟨by decide, hpc⟩)]
    split_ifs <;> rfl
  | 1 | 2 | _ + 3 => split_ifs <;> simp <;> omega

theorem State.fetchBytes_eq_cons (s : State) : ∃ bs, s.fetchBytes = s.mem.read s.pc.toNat :: bs := by
  rw [s.fetchBytes_eq]
  split_ifs <;> exact ⟨_, rfl⟩

/-- Settles O14, from the Running branch of a step. -/
theorem stepRunsDecodedInstruction : Obligations.StepRunsDecodedInstruction :=
  fun _ _ _ => stepUsing_of_decode

/-- Settles O15: the encoding is at most three bytes long, so the bytes fetched begin with it and decode to the instruction. -/
theorem encodedBytesAtPcExecute : Obligations.EncodedBytesAtPcExecute := by
  intro s i hrun hbytes
  have hprefix : encode i <+: s.fetchBytes := by
    refine List.prefix_iff_getElem?.mpr fun k hk => ?_
    obtain ⟨hin, hread⟩ := hbytes k hk
    have hlen := Instr.length_le_three i
    rw [encode_length] at hk
    rw [s.fetchBytes_getElem?, if_pos ⟨by omega, hin⟩, hread]
  obtain ⟨rest, hrest⟩ := hprefix
  exact stepUsing_of_decode hrun (hrest ▸ decodeOfEncode i rest)

theorem State.fetchBytes_congr {s s' : State} (hpc : s'.pc = s.pc)
    (hmem : ∀ k, k ≤ 2 → s'.mem.read (s.pc.toNat + k) = s.mem.read (s.pc.toNat + k)) :
    s'.fetchBytes = s.fetchBytes := by
  ext1 k
  rw [s'.fetchBytes_getElem?, s.fetchBytes_getElem?, hpc]
  split_ifs with hk
  · rw [hmem k hk.1]
  · rfl

/-- Settles O16: a fetch is made of the bytes fetched, the byte at PC and PC. -/
theorem decodingDependsOnBytesOnly : Obligations.DecodingDependsOnBytesOnly := by
  intro s s' hpc hmem
  have hopcode : s'.opcodeByte = s.opcodeByte := by
    rw [State.opcodeByte, State.opcodeByte, hpc]
    exact hmem 0 (by decide)
  have hfall : s'.fallThrough = s.fallThrough := by
    funext k
    rw [State.fallThrough, State.fallThrough, State.pc17, State.pc17, hpc]
  rw [State.fetch, State.fetch, State.fetchBytes_congr hpc hmem, hpc, hopcode, hfall]

end Sys2Proof.Machine
end

section
/-! The bytes without a table entry and the fault they raise (spec/30_encoding.md R67 to R70; 60_exceptions.md R201). -/

namespace Sys2Proof.Machine

open Sys2Proof.Claims

/-! ## The unmapped bytes -/

/-- The primary table and the ranges of R68 leave no byte out and share none. -/
theorem primaryTable_lookup_isNone (b : Byte) (h : b ≠ 0xCB#8) :
    (primaryTable.lookup b).isNone = unmappedPrimary b := by
  revert b
  decide

/-- The secondary table and the ranges of R70 leave no byte out and share none. -/
theorem secondaryTable_lookup_isNone (b : Byte) : (secondaryTable.lookup b).isNone = unmappedSecondary b := by
  revert b
  decide

theorem length_filter_of_length_filter_not {p : Nat → Bool} {m n : Nat}
    (h : ((List.range n).filter (fun k => !p k)).length = m) : ((List.range n).filter p).length = n - m := by
  have hall : (List.range n).length = _ := List.length_eq_length_filter_add p
  rw [List.length_range, h] at hall
  omega

/-- 50 bytes have a primary entry, and the prefix byte stands for the secondary table. -/
theorem unmappedPrimary_count : ((List.range 256).filter (fun n => unmappedPrimary (BitVec.ofNat 8 n))).length = 205 :=
  length_filter_of_length_filter_not (m := 51) rfl

/-- 14 sub-opcodes have a secondary entry. -/
theorem unmappedSecondary_count :
    ((List.range 256).filter (fun n => unmappedSecondary (BitVec.ofNat 8 n))).length = 242 :=
  length_filter_of_length_filter_not (m := 14) rfl

theorem primaryTable_lookup_eq_none_iff {b : Byte} (h : b ≠ 0xCB#8) :
    primaryTable.lookup b = none ↔ unmappedPrimary b = true := by
  rw [← primaryTable_lookup_isNone b h, Option.isNone_iff_eq_none]

theorem secondaryTable_lookup_eq_none_iff {b : Byte} :
    secondaryTable.lookup b = none ↔ unmappedSecondary b = true := by
  rw [← secondaryTable_lookup_isNone b, Option.isNone_iff_eq_none]

/-! ## What the decoder answers for them -/

theorem decode_of_unmappedPrimary {b : Byte} (h : unmappedPrimary b = true) (bs : List Byte) :
    decode (b :: bs) = .unknownOpcode b none := by
  have hcb : b ≠ 0xCB#8 := by
    rintro rfl
    cases h
  rw [decode, if_neg hcb, (primaryTable_lookup_eq_none_iff hcb).mpr h]

theorem decode_of_unmappedSecondary {c : Byte} (h : unmappedSecondary c = true) (bs : List Byte) :
    decode (0xCB#8 :: c :: bs) = .unknownOpcode 0xCB#8 (some c) := by
  rw [decode, if_pos rfl, decodeSecondary, secondaryTable_lookup_eq_none_iff.mpr h]

theorem exists_encode_of_mappedSecondary {c : Byte} (h : unmappedSecondary c = false) :
    ∃ i, encode i = [0xCB#8, c] ∧ i.length = 2 := by
  obtain ⟨i, hi⟩ : ∃ i, secondaryTable.lookup c = some i :=
    Option.isSome_iff_exists.mp (by rw [← Option.not_isNone, secondaryTable_lookup_isNone, h]; rfl)
  have hmem := mem_of_lookup_eq_some hi
  exact ⟨i, secondaryTable_encode _ hmem, secondaryTable_length _ hmem⟩

theorem decodeOperands_ne_unknownOpcode (e : Entry) (bs : List Byte) (byte : Byte) (subop : Option Byte) :
    decodeOperands e bs ≠ .unknownOpcode byte subop := by
  match e, bs with
  | .op _, _ | .opD8 _, [] | .opD8 _, _ :: _ | .opD16 _, [] | .opD16 _, [_] | .opD16 _, _ :: _ :: _ => nofun

theorem unmappedSecondary_of_decodeSecondary {bs : List Byte} {byte : Byte} {subop : Option Byte}
    (h : decodeSecondary bs = .unknownOpcode byte subop) :
    byte = 0xCB#8 ∧ ∃ c cs, bs = c :: cs ∧ subop = some c ∧ unmappedSecondary c = true := by
  cases bs with
  | nil => cases h
  | cons c cs =>
    rw [decodeSecondary] at h
    split at h
    next => cases h
    next hl =>
      cases h
      exact ⟨rfl, c, cs, rfl, rfl, secondaryTable_lookup_eq_none_iff.mp hl⟩

/-- The decoder knows every opcode but the unmapped primary bytes and the unmapped sub-opcodes behind the prefix byte. -/
theorem unmapped_of_decode {b byte : Byte} {bs : List Byte} {subop : Option Byte}
    (h : decode (b :: bs) = .unknownOpcode byte subop) :
    byte = b ∧ ((subop = none ∧ unmappedPrimary b = true) ∨
      (b = 0xCB#8 ∧ ∃ c cs, bs = c :: cs ∧ subop = some c ∧ unmappedSecondary c = true)) := by
  rw [decode] at h
  split at h
  next hcb =>
    obtain ⟨hbyte, hsub⟩ := unmappedSecondary_of_decodeSecondary h
    exact ⟨hbyte.trans hcb.symm, .inr ⟨hcb, hsub⟩⟩
  next hcb =>
    split at h
    next => exact absurd h (decodeOperands_ne_unknownOpcode _ _ _ _)
    next hl =>
      cases h
      exact ⟨rfl, .inl ⟨rfl, (primaryTable_lookup_eq_none_iff hcb).mp hl⟩⟩

/-! ## The fault -/

/-- Where the sub-opcode byte is in memory, it is the second byte fetched. -/
theorem State.fetchBytes_eq_cons_cons {s : State} (h : s.pc.toNat + 1 < 0x10000) :
    ∃ bs, s.fetchBytes = s.mem.read s.pc.toNat :: s.mem.read (s.pc.toNat + 1) :: bs := by
  rw [s.fetchBytes_eq, if_pos (show s.pc.toNat + 1 < Config.memSize from h)]
  split_ifs <;> exact ⟨_, rfl⟩

theorem step_of_unknownOpcode {s : State} {byte : Byte} {subop : Option Byte} (hrun : s.status = .running)
    (h : decode s.fetchBytes = .unknownOpcode byte subop) :
    step s = .next (s.raise (.unknownOpcode s.pc byte subop)) := by
  rw [step_running hrun, State.fetch, h]

theorem step_of_unmappedPrimary {s : State} (hrun : s.status = .running)
    (h : unmappedPrimary (s.mem.read s.pc.toNat) = true) :
    step s = .next (s.raise (.unknownOpcode s.pc (s.mem.read s.pc.toNat) none)) := by
  obtain ⟨bs, hbs⟩ := s.fetchBytes_eq_cons
  exact step_of_unknownOpcode hrun (hbs ▸ decode_of_unmappedPrimary h bs)

theorem step_of_unmappedSecondary {s : State} (hrun : s.status = .running) (hcb : s.mem.read s.pc.toNat = 0xCB#8)
    (hin : s.pc.toNat + 1 < 0x10000) (h : unmappedSecondary (s.mem.read (s.pc.toNat + 1)) = true) :
    step s = .next (s.raise (.unknownOpcode s.pc 0xCB#8 (some (s.mem.read (s.pc.toNat + 1))))) := by
  obtain ⟨bs, hbs⟩ := State.fetchBytes_eq_cons_cons hin
  rw [hcb] at hbs
  exact step_of_unknownOpcode hrun (hbs ▸ decode_of_unmappedSecondary h bs)

theorem step_of_mappedSecondary {s : State} (hrun : s.status = .running) (hcb : s.mem.read s.pc.toNat = 0xCB#8)
    (hin : s.pc.toNat + 1 < 0x10000) (h : unmappedSecondary (s.mem.read (s.pc.toNat + 1)) = false) :
    ∃ i, encode i = [0xCB#8, s.mem.read (s.pc.toNat + 1)] ∧ i.length = 2 ∧ step s = exec i s := by
  obtain ⟨i, hi, hlen⟩ := exists_encode_of_mappedSecondary h
  obtain ⟨bs, hbs⟩ := State.fetchBytes_eq_cons_cons hin
  have hd : s.fetchBytes = encode i ++ bs := by rw [hbs, hcb, hi]; rfl
  exact ⟨i, hi, hlen, stepUsing_of_decode hrun (hd ▸ decodeOfEncode i bs)⟩

/-- The only fault an execution raises is a next PC past the top of memory (60_exceptions.md R202). -/
theorem exec_faulted_info {i : Instr} {s t : State} {info : EngineFault} (hrun : s.status = .running)
    (h : exec i s = .next t) (ht : t.status = .faulted info) :
    info = .outOfRange s.pc s.opcodeByte .nextPc (actionOf i s).nextPc := by
  obtain ⟨-, he⟩ | ⟨-, -, he⟩ | ⟨-, -, he⟩ := exec_outcomes i s <;> cases he.symm.trans h
  · cases ht
    rfl
  · rw [Action.done_status, actionOf_status, hrun] at ht
    split at ht <;> cases ht

theorem exec_ne_unknownOpcode {i : Instr} {s t : State} {addr : Word} {byte : Byte} {subop : Option Byte}
    (hrun : s.status = .running) (h : exec i s = .next t) : t.status ≠ .faulted (.unknownOpcode addr byte subop) :=
  fun ht => nomatch exec_faulted_info hrun h ht

/-- A step that raises UnknownOpcode records PC and what the decoder found no entry for. -/
theorem decode_of_step_unknownOpcode {s t : State} {addr : Word} {byte : Byte} {subop : Option Byte}
    (h : step s = .next t) (ht : t.status = .faulted (.unknownOpcode addr byte subop)) :
    addr = s.pc ∧ decode s.fetchBytes = .unknownOpcode byte subop := by
  obtain ⟨hrun, ⟨i, -, hexec⟩ | ⟨info, hfetch, rfl⟩⟩ := step_cases h
  · exact absurd ht (exec_ne_unknownOpcode hrun hexec)
  · cases ht
    obtain ⟨i, rest, -, hf⟩ | ⟨byte', subop', hd, hf⟩ | ⟨offset, -, hf⟩ := s.fetch_cases <;>
      cases hf.symm.trans hfetch
    exact ⟨rfl, hd⟩

theorem unmapped_of_step_unknownOpcode {s t : State} {addr : Word} {byte : Byte} {subop : Option Byte}
    (h : step s = .next t) (ht : t.status = .faulted (.unknownOpcode addr byte subop)) :
    addr = s.pc ∧ byte = s.mem.read s.pc.toNat ∧
    ((subop = none ∧ unmappedPrimary byte = true) ∨
      (∃ b, subop = some b ∧ byte = 0xCB#8 ∧ s.pc.toNat + 1 < 0x10000 ∧ b = s.mem.read (s.pc.toNat + 1) ∧
        unmappedSecondary b = true)) := by
  obtain ⟨haddr, hd⟩ := decode_of_step_unknownOpcode h ht
  obtain ⟨bs, hbs⟩ := s.fetchBytes_eq_cons
  rw [hbs] at hd
  obtain ⟨rfl, hprimary | ⟨hcb, c, cs, rfl, hsub, hc⟩⟩ := unmapped_of_decode hd
  · exact ⟨haddr, rfl, .inl hprimary⟩
  · have hsecond : s.fetchBytes[1]? = some c := by rw [hbs]; rfl
    rw [s.fetchBytes_getElem?, Option.ite_none_right_eq_some] at hsecond
    obtain ⟨⟨-, hin⟩, hread⟩ := hsecond
    exact ⟨haddr, rfl, .inr ⟨c, hsub, hcb, hin, (Option.some.inj hread).symm, hc⟩⟩

/-- Settles O12: the list of R68 against the primary table, and the step of a byte in it. -/
theorem everyByteMappedOrUnmapped : Obligations.EveryByteMappedOrUnmapped :=
  ⟨primaryTable_lookup_isNone, rfl, unmappedPrimary_count, fun _ => step_of_unmappedPrimary⟩

/-- Settles O13, clause by clause; at 0xFFFF the prefix byte is one of the opcodes with an operand past the top of memory. -/
theorem unknownOpcodeDiagnostic : Obligations.UnknownOpcodeDiagnostic := by
  obtain ⟨-, operandPastTop, -⟩ := operandReadsPastTopFault
  exact ⟨unmappedPrimary_count, unmappedSecondary_count, secondaryTable_lookup_isNone,
    fun _ => step_of_unmappedPrimary, fun _ => step_of_unmappedSecondary,
    fun s hrun hcb hpc => operandPastTop s hrun hpc (.inl hcb), fun _ => step_of_mappedSecondary,
    fun _ _ _ _ _ => unmapped_of_step_unknownOpcode, fun _ _ _ _ _ _ => exec_ne_unknownOpcode⟩

end Sys2Proof.Machine
end

section
/-! The no-op instruction (spec/40_nop.md R100), from what every instruction that falls through has in common: the PC and the
counter it leaves, and its fault at the top of memory (10_state.md R24, R25). -/

namespace Sys2Proof.Machine

open Sys2Proof.Claims

theorem exec_completes {i : Instr} {s : State} (hpc : nextPc i s < 0x10000)
    (hc : s.cycles.toNat + Config.cycleCost (costOf i s) < 2 ^ 64) :
    exec i s = .next ((actionOf i s).done Config.cycleCost s) :=
  exec_eq_execWith i s ▸ execWith_completes hpc hc

/-- A next PC just past the top of memory raises the fault the instruction rules state. -/
theorem exec_nextPcFault {i : Instr} {s : State} (h : nextPc i s = 0x10000) : NextPcFault i s := by
  rw [NextPcFault, exec_faults h.ge, h]

/-- The state left by a completed instruction that falls through, without the 17-bit next PC. -/
theorem Action.done_fallThrough {length : Nat} (hlength : length ≤ 3) (costs : CycleCost) (s w : State) (e : CostEntry) :
    Action.done costs s ⟨w, s.fallThrough length, e⟩ =
      { w with pc := s.pc + BitVec.ofNat 16 length, cycles := s.cycles + BitVec.ofNat 64 (costs e) } := by
  rw [Action.done, s.fallThrough_truncate length hlength, BitVec.ofNat_add, BitVec.ofNat_toNat, BitVec.setWidth_eq]

/-- The default table meets the constraint of 70_reset_and_hazards.md R262: `NOP` costs the least. -/
theorem cycleCost_nop_le (e : CostEntry) : Config.cycleCost .nop ≤ Config.cycleCost e := by
  cases e <;> decide

/-- Settles O32: the action of `NOP` writes nothing and falls through, so commit changes PC and the counter alone. -/
theorem nopAdvancesOnly : Obligations.NopAdvancesOnly := by
  refine ⟨rfl, fun s ⟨hpc, hc⟩ => ?completes, cycleCost_nop_le, fun s hpc => ?pastTop⟩
  case completes =>
    rw [exec_completes (i := .nop) hpc hc, actionOf_nop, Action.done_fallThrough (by decide)]
  case pastTop =>
    have htop : nextPc .nop s = s.pc.toNat + 1 := rfl
    exact exec_nextPcFault (by rw [htop, hpc]; rfl)

end Sys2Proof.Machine
end

section
/-! The loads of a 16-bit immediate (spec/41_ld_r16_d16.md R105), after what the forms that fall through leave in PC, in the
counter and in the slots (10_state.md R24, R27). -/

namespace Sys2Proof

theorem Reg16.slot_ne_pc (rr : Reg16) : rr.slot ≠ .pc := by cases rr <;> decide

end Sys2Proof

namespace Sys2Proof.Machine

open Sys2Proof.Claims

/-! ## Instructions that fall through -/

/-- An instruction that falls through completes where there is room for it. -/
theorem exec_advances {i : Instr} {s : State} {length : Nat} {e : CostEntry} (hroom : RoomFor s length e)
    (hpc : nextPc i s = s.pc.toNat + length) (hcost : costOf i s = e) :
    exec i s = .next ((actionOf i s).done Config.cycleCost s) ∧
      Advanced s ((actionOf i s).done Config.cycleCost s) length e := by
  subst hcost
  obtain ⟨hmem, hlimit⟩ := hroom
  rw [← hpc] at hmem
  exact ⟨exec_completes hmem hlimit, (actionOf_done_pc_toNat hmem).trans hpc, actionOf_done_cycles_toNat hlimit⟩

/-- Commit writes no slot but PC. -/
theorem Action.done_readU16 (costs : CycleCost) (s : State) (act : Action) {sl : Slot} (h : sl ≠ .pc) :
    (act.done costs s).readU16 sl = act.written.readU16 sl := by
  cases sl with
  | pc => exact absurd rfl h
  | _ => rfl

/-! ## Operands past the top of memory -/

/-- Behind an opcode of format `OP_D16` the last two addresses leave no room for the immediate (20_memory.md R50). -/
theorem operandReadFault_of_d16Opcode {s : State} (hrun : s.status = .running)
    (hpc : s.pc = 0xFFFE#16 ∨ s.pc = 0xFFFF#16) (hop : s.mem.read s.pc.toNat ∈ d16Opcodes) : OperandReadFault s := by
  obtain ⟨-, atFFFF, atFFFE⟩ := operandReadsPastTopFault
  obtain hpc | hpc := hpc
  · exact atFFFE s hrun hpc hop
  · exact atFFFF s hrun hpc (.inr (.inr hop))

/-! ## `LD rr,d16` -/

theorem actionOf_ldRrD16 (rr : Reg16) (n : Word) (s : State) :
    actionOf (.ldRrD16 rr n) s = ⟨s.writeU16 rr.slot n, s.fallThrough 3, .ldRrD16⟩ := by cases rr <;> rfl

theorem nextPc_ldRrD16 (rr : Reg16) (n : Word) (s : State) : nextPc (.ldRrD16 rr n) s = s.pc.toNat + 3 := by
  cases rr <;> rfl

theorem costOf_ldRrD16 (rr : Reg16) (n : Word) (s : State) : costOf (.ldRrD16 rr n) s = .ldRrD16 := by cases rr <;> rfl

/-- Settles O33: the action writes the immediate through the port of the slot, so the frame is that of the port, and the
faults are those of every instruction that falls through and of every opcode of format `OP_D16`. -/
theorem loadImm16WritesSlot : Obligations.LoadImm16WritesSlot := by
  refine ⟨fun n => rfl, fun rr n s hroom => ?completes, fun rr n s hpc => ?pastTop, fun s hrun hpc hop => ?operand⟩
  case completes =>
    obtain ⟨hexec, hadv⟩ := exec_advances hroom (nextPc_ldRrD16 rr n s) (costOf_ldRrD16 rr n s)
    rw [actionOf_ldRrD16] at hexec hadv
    refine ⟨_, hexec, ?slot, fun sl hsl hother => ?otherSlots, fun a => ?memory, s.writeU16_status rr.slot n, hadv⟩
    case slot => rw [Action.done_readU16 _ _ _ rr.slot_ne_pc, State.readU16_writeU16_same]
    case otherSlots =>
      rw [Action.done_readU16 _ _ _ hsl, s.readU16_writeU16_other rr.slot sl n (List.ne_of_not_mem_cons hother)]
    case memory => rw [Action.done_mem, State.writeU16_mem]
  case pastTop => exact exec_nextPcFault (by rw [nextPc_ldRrD16, hpc]; rfl)
  case operand =>
    have hformat : [0x01#8, 0x11#8, 0x21#8, 0x31#8] ⊆ d16Opcodes := by decide
    exact operandReadFault_of_d16Opcode hrun hpc (hformat hop)

end Sys2Proof.Machine
end

section
/-! The stores of a lane through a pair (spec/42_store_r8_indirect.md R110, R111): one lemma about every instruction whose action
is such a store, which the two forms cite. -/

namespace Sys2Proof.Machine

open Sys2Proof.Claims

/-! ## Any store of a lane through a pair -/

/-- Address and datum are those of the state before the store, also where the lane is half of the pair (R111). -/
theorem exec_storesLane {i : Instr} {s : State} {pair : Slot} {lane : Lane} {e : CostEntry} (hroom : RoomFor s 1 e)
    (hact : actionOf i s = ⟨s.memWrite (s.storeAddress pair) (s.readU8 lane), s.fallThrough 1, e⟩)
    (hpc : nextPc i s = s.pc.toNat + 1) (hcost : costOf i s = e) :
    ∃ t, exec i s = .next t ∧ t.mem.read (s.storeAddress pair).toNat = s.readU8 lane ∧
      (∀ a, a ≠ (s.storeAddress pair).toNat → t.mem.read a = s.mem.read a) ∧ SameSlotsBut s t [] ∧
      t.status = s.status ∧ Advanced s t 1 e := by
  obtain ⟨hexec, hadv⟩ := exec_advances hroom hpc hcost
  rw [hact] at hexec hadv
  refine ⟨_, hexec, ?stored, fun a ha => ?otherBytes, fun sl hsl _ => ?slots, ?status, hadv⟩
  case stored => rw [Action.done_mem, State.memWrite_mem, Memory.read_write_same]
  case otherBytes => rw [Action.done_mem, State.memWrite_mem, Memory.read_write_other _ _ _ _ ha]
  case slots => rw [Action.done_readU16 _ _ _ hsl, State.readU16_memWrite]
  case status => rw [Action.done_status, State.memWrite_status]

/-! ## `LD (pp),A` -/

theorem actionOf_ldIndPpA (pp : StorePair) (s : State) :
    actionOf (.ldIndPpA pp) s = ⟨s.memWrite (s.storeAddress pp.slot) (s.readU8 .a), s.fallThrough 1, .ldIndPpA⟩ := by
  cases pp <;> rfl

theorem nextPc_ldIndPpA (pp : StorePair) (s : State) : nextPc (.ldIndPpA pp) s = s.pc.toNat + 1 := by cases pp <;> rfl

theorem costOf_ldIndPpA (pp : StorePair) (s : State) : costOf (.ldIndPpA pp) s = .ldIndPpA := by cases pp <;> rfl

/-- Settles O34: the form is a store of lane A, and its fault that of every instruction that falls through. -/
theorem storeAccumulatorThroughPair : Obligations.StoreAccumulatorThroughPair := by
  refine ⟨rfl, fun pp s hroom => ?completes, fun pp s hpc => ?pastTop⟩
  case completes =>
    obtain ⟨t, hexec, hframe⟩ :=
      exec_storesLane hroom (actionOf_ldIndPpA pp s) (nextPc_ldIndPpA pp s) (costOf_ldIndPpA pp s)
    exact ⟨t, hexec, rfl, hframe⟩
  case pastTop => exact exec_nextPcFault (by rw [nextPc_ldIndPpA, hpc]; rfl)

/-! ## `LD (HL),r` -/

theorem actionOf_ldIndHlR (r : Reg) (s : State) :
    actionOf (.ldIndHlR r) s = ⟨s.memWrite (s.storeAddress .hl) (s.readU8 r.lane), s.fallThrough 1, .ldIndHlR⟩ := by
  cases r <;> rfl

theorem nextPc_ldIndHlR (r : Reg) (s : State) : nextPc (.ldIndHlR r) s = s.pc.toNat + 1 := by cases r <;> rfl

theorem costOf_ldIndHlR (r : Reg) (s : State) : costOf (.ldIndHlR r) s = .ldIndHlR := by cases r <;> rfl

/-- Settles O35: the form is a store through HL, and its fault that of every instruction that falls through. -/
theorem storeLaneThroughHl : Obligations.StoreLaneThroughHl := by
  refine ⟨rfl, fun r s hroom => ?completes, fun r s hpc => ?pastTop⟩
  case completes =>
    obtain ⟨t, hexec, hframe⟩ :=
      exec_storesLane hroom (actionOf_ldIndHlR r s) (nextPc_ldIndHlR r s) (costOf_ldIndHlR r s)
    exact ⟨t, hexec, rfl, hframe⟩
  case pastTop => exact exec_nextPcFault (by rw [nextPc_ldIndHlR, hpc]; rfl)

end Sys2Proof.Machine
end

section
/-! Increment and decrement of a 16-bit slot (spec/43_incdec_r16.md R115, R116): one lemma about every instruction whose action
writes a single slot, which the two forms cite. -/

namespace Sys2Proof.Machine

open Sys2Proof.Claims

/-! ## Any one-byte instruction that writes one slot -/

/-- A slot other than PC is written through its port alone, so no flag changes unless the slot is AF (10_state.md R34). -/
theorem exec_writesSlot {i : Instr} {s : State} {slot : Slot} {v : Word} {e : CostEntry} (hslot : slot ≠ .pc)
    (hroom : RoomFor s 1 e) (hact : actionOf i s = ⟨s.writeU16 slot v, s.fallThrough 1, e⟩)
    (hpc : nextPc i s = s.pc.toNat + 1) (hcost : costOf i s = e) :
    ∃ t, exec i s = .next t ∧ t.readU16 slot = v ∧ SameSlotsBut s t [slot] ∧ SameMemory s t ∧
      t.status = s.status ∧ Advanced s t 1 e := by
  obtain ⟨hexec, hadv⟩ := exec_advances hroom hpc hcost
  rw [hact] at hexec hadv
  refine ⟨_, hexec, ?written, fun sl hsl hother => ?otherSlots, fun a => ?memory, s.writeU16_status slot v, hadv⟩
  case written => rw [Action.done_readU16 _ _ _ hslot, State.readU16_writeU16_same]
  case otherSlots =>
    rw [Action.done_readU16 _ _ _ hsl, s.readU16_writeU16_other slot sl v (List.ne_of_not_mem_cons hother)]
  case memory => rw [Action.done_mem, State.writeU16_mem]

/-- `w - 1` modulo 2^16 as the sum the rule of `DEC rr` states (00_scope.md R5). -/
theorem toNat_sub_one (w : Word) : (w - 1#16).toNat = (w.toNat + 65535) % 2 ^ 16 := by
  rw [BitVec.toNat_sub, Nat.add_comm]
  rfl

/-! ## `INC rr` -/

theorem actionOf_incRr (rr : Reg16) (s : State) :
    actionOf (.incRr rr) s = ⟨s.writeU16 rr.slot (s.readU16 rr.slot + 1#16), s.fallThrough 1, .incRr⟩ := by
  cases rr <;> rfl

theorem nextPc_incRr (rr : Reg16) (s : State) : nextPc (.incRr rr) s = s.pc.toNat + 1 := by cases rr <;> rfl

theorem costOf_incRr (rr : Reg16) (s : State) : costOf (.incRr rr) s = .incRr := by cases rr <;> rfl

/-- Settles O36: the form writes the sum through the port of its slot, and its fault is that of every instruction that
falls through. -/
theorem incSlotWraps : Obligations.IncSlotWraps := by
  refine ⟨rfl, fun rr s hroom => ?completes, fun rr s hpc => ?pastTop⟩
  case completes =>
    obtain ⟨t, hexec, hvalue, hframe⟩ :=
      exec_writesSlot rr.slot_ne_pc hroom (actionOf_incRr rr s) (nextPc_incRr rr s) (costOf_incRr rr s)
    exact ⟨t, hexec, hvalue ▸ BitVec.toNat_add _ _, hframe⟩
  case pastTop => exact exec_nextPcFault (by rw [nextPc_incRr, hpc]; rfl)

/-! ## `DEC rr` -/

theorem actionOf_decRr (rr : Reg16) (s : State) :
    actionOf (.decRr rr) s = ⟨s.writeU16 rr.slot (s.readU16 rr.slot - 1#16), s.fallThrough 1, .decRr⟩ := by
  cases rr <;> rfl

theorem nextPc_decRr (rr : Reg16) (s : State) : nextPc (.decRr rr) s = s.pc.toNat + 1 := by cases rr <;> rfl

theorem costOf_decRr (rr : Reg16) (s : State) : costOf (.decRr rr) s = .decRr := by cases rr <;> rfl

/-- Settles O37: the form writes the difference through the port of its slot, and its fault is that of every instruction
that falls through. -/
theorem decSlotWraps : Obligations.DecSlotWraps := by
  refine ⟨rfl, fun rr s hroom => ?completes, fun rr s hpc => ?pastTop⟩
  case completes =>
    obtain ⟨t, hexec, hvalue, hframe⟩ :=
      exec_writesSlot rr.slot_ne_pc hroom (actionOf_decRr rr s) (nextPc_decRr rr s) (costOf_decRr rr s)
    exact ⟨t, hexec, hvalue ▸ toNat_sub_one _, hframe⟩
  case pastTop => exact exec_nextPcFault (by rw [nextPc_decRr, hpc]; rfl)

end Sys2Proof.Machine
end

section
/-! The ALU results of `inc8` and `dec8` (spec/44_incdec_r8.md R122), each output read as arithmetic on the operand. -/

namespace Sys2Proof.Machine

open Sys2Proof.Claims

/-- The half-carry tests look at the operand's low nibble alone (00_scope.md R5). -/
theorem lowNibble_beq_eq_decide (v : Byte) (n : BitVec 4) :
    (v.extractLsb' 0 4 == n) = decide (v.toNat % 16 = n.toNat) := by
  have hnibble : (v.extractLsb' 0 4).toNat = v.toNat % 16 := by simp
  rw [beq_eq_decide, decide_eq_decide, ← BitVec.toNat_inj, hnibble]

theorem add_one_eq_zero_iff (v : Byte) : v + 1#8 = 0#8 ↔ v = 0xFF#8 := by bv_omega

theorem sub_one_eq_zero_iff (v : Byte) : v - 1#8 = 0#8 ↔ v = 0x01#8 := by bv_omega

/-- Settles O40: the result wraps to 0 from one operand only, and half-carry is a condition on the operand's low nibble. -/
theorem aluOutputs : Obligations.AluOutputs := by
  refine fun v => ⟨⟨BitVec.toNat_add v 1#8, beq_eq_decide _ _, ?incZero, rfl, ?incHalf⟩,
    ⟨?decResult, beq_eq_decide _ _, ?decZero, rfl, ?decHalf⟩⟩
  case incZero => exact (beq_eq_decide _ _).trans (decide_eq_decide.mpr (add_one_eq_zero_iff v))
  case incHalf =>
    have hnibble : v.toNat % 16 = 15 ↔ v.toNat % 16 + 1 > 15 := by omega
    exact (lowNibble_beq_eq_decide v 0xF#4).trans (decide_eq_decide.mpr hnibble)
  case decResult => exact (BitVec.toNat_sub v 1#8).trans (congrArg (· % 2 ^ 8) (Nat.add_comm _ _))
  case decZero => exact (beq_eq_decide _ _).trans (decide_eq_decide.mpr (sub_one_eq_zero_iff v))
  case decHalf =>
    have hnibble : v.toNat % 16 = 0 ↔ v.toNat % 16 < 1 := by omega
    exact (lowNibble_beq_eq_decide v 0x0#4).trans (decide_eq_decide.mpr hnibble)

end Sys2Proof.Machine
end

section
/-! Increment and decrement of an 8-bit lane (spec/44_incdec_r8.md R120, R121, R123): one lemma about every instruction whose
action writes an ALU output, which the two forms cite. -/

namespace Sys2Proof

theorem Reg.lane_ne_f (r : Reg) : r.lane ≠ .f := by cases r <;> decide

end Sys2Proof

namespace Sys2Proof.Machine

open Sys2Proof.Claims

/-! ## Any one-byte instruction that writes an ALU output -/

/-- The three flags written are those of the output, also where the lane shares AF with them. -/
theorem State.readFlag_writeAlu (s : State) (ln : Lane) (o : AluOut) :
    (s.writeAlu ln o).readFlag .z = o.z ∧ (s.writeAlu ln o).readFlag .n = o.n ∧ (s.writeAlu ln o).readFlag .h = o.h := by
  refine ⟨?_, ?_, ?_⟩ <;> rw [State.writeAlu, State.readFlag_writeZNH]

/-- The lane and Z, N and H come from the output; Carry and everything else stay (10_state.md R34, R35). -/
theorem exec_writesAlu {i : Instr} {s : State} {lane : Lane} {o : AluOut} {e : CostEntry} (hlane : lane ≠ .f)
    (hroom : RoomFor s 1 e) (hact : actionOf i s = ⟨s.writeAlu lane o, s.fallThrough 1, e⟩)
    (hpc : nextPc i s = s.pc.toNat + 1) (hcost : costOf i s = e) :
    ∃ t, exec i s = .next t ∧
      (t.readU8 lane = o.res ∧ t.readFlag .z = o.z ∧ t.readFlag .n = o.n ∧ t.readFlag .h = o.h) ∧
      t.readFlag .c = s.readFlag .c ∧ SameLowNibble s t ∧ SameLanesBut s t [lane] ∧ SameMemory s t ∧
      t.status = s.status ∧ Advanced s t 1 e := by
  obtain ⟨hexec, hadv⟩ := exec_advances hroom hpc hcost
  rw [hact] at hexec hadv
  refine ⟨_, hexec, ⟨?result, s.readFlag_writeAlu lane o⟩, s.readFlag_writeAlu_carry lane o hlane, exec_lowNibble hexec,
    ⟨fun ln hln hother => ?otherLanes, s.writeAlu_sp lane o⟩, fun a => ?memory, s.writeAlu_status lane o, hadv⟩
  case result => rw [Action.done_readU8, s.readU8_writeAlu lane lane o hlane, if_pos rfl]
  case otherLanes =>
    rw [Action.done_readU8, s.readU8_writeAlu lane ln o hln, if_neg (List.ne_of_not_mem_cons hother)]
  case memory => rw [Action.done_mem, State.writeAlu_mem]

/-! ## `INC r` -/

theorem actionOf_incR (r : Reg) (s : State) :
    actionOf (.incR r) s = ⟨s.writeAlu r.lane (aluInc8 (s.readU8 r.lane)), s.fallThrough 1, .incR⟩ := by
  cases r <;> rfl

theorem nextPc_incR (r : Reg) (s : State) : nextPc (.incR r) s = s.pc.toNat + 1 := by cases r <;> rfl

theorem costOf_incR (r : Reg) (s : State) : costOf (.incR r) s = .incR := by cases r <;> rfl

/-- Settles O38: the form writes the output of `inc8`, whose parts O40 states as arithmetic, and its fault is that of every
instruction that falls through. -/
theorem incLaneSetsFlags : Obligations.IncLaneSetsFlags := by
  refine ⟨rfl, fun r s hroom => ?completes, fun r s hpc => ?pastTop⟩
  case completes =>
    obtain ⟨t, hexec, ⟨hres, hz, hn, hh⟩, hframe⟩ :=
      exec_writesAlu r.lane_ne_f hroom (actionOf_incR r s) (nextPc_incR r s) (costOf_incR r s)
    obtain ⟨⟨hsum, hzero, hwraps, hsub, hhalf⟩, -⟩ := aluOutputs (s.readU8 r.lane)
    refine ⟨t, hexec, hres ▸ hsum, ?zero, ?wraps, hn.trans hsub, ?half, hframe⟩
    case zero => rw [hz, hres, hzero, decide_eq_true_iff]
    case wraps => rw [hz, hwraps, decide_eq_true_iff, ← BitVec.toNat_inj]; rfl
    case half => rw [hh, hhalf, decide_eq_true_iff]; omega
  case pastTop => exact exec_nextPcFault (by rw [nextPc_incR, hpc]; rfl)

/-! ## `DEC r` -/

theorem actionOf_decR (r : Reg) (s : State) :
    actionOf (.decR r) s = ⟨s.writeAlu r.lane (aluDec8 (s.readU8 r.lane)), s.fallThrough 1, .decR⟩ := by
  cases r <;> rfl

theorem nextPc_decR (r : Reg) (s : State) : nextPc (.decR r) s = s.pc.toNat + 1 := by cases r <;> rfl

theorem costOf_decR (r : Reg) (s : State) : costOf (.decR r) s = .decR := by cases r <;> rfl

/-- Settles O39: the form writes the output of `dec8`, whose parts O40 states as arithmetic, and its fault is that of every
instruction that falls through. -/
theorem decLaneSetsFlags : Obligations.DecLaneSetsFlags := by
  refine ⟨rfl, fun r s hroom => ?completes, fun r s hpc => ?pastTop⟩
  case completes =>
    obtain ⟨t, hexec, ⟨hres, hz, hn, hh⟩, hframe⟩ :=
      exec_writesAlu r.lane_ne_f hroom (actionOf_decR r s) (nextPc_decR r s) (costOf_decR r s)
    obtain ⟨-, hdiff, hzero, hwasOne, hsub, hhalf⟩ := aluOutputs (s.readU8 r.lane)
    refine ⟨t, hexec, hres ▸ hdiff, ?zero, ?wasOne, hn.trans hsub, ?half, hframe⟩
    case zero => rw [hz, hres, hzero, decide_eq_true_iff]
    case wasOne => rw [hz, hwasOne, decide_eq_true_iff, ← BitVec.toNat_inj]; rfl
    case half => rw [hh, hhalf, decide_eq_true_iff, Nat.lt_one_iff]
  case pastTop => exact exec_nextPcFault (by rw [nextPc_decR, hpc]; rfl)

end Sys2Proof.Machine
end

section
/-! The loads of an 8-bit immediate (spec/45_ld_r8_d8.md R125). -/

namespace Sys2Proof.Machine

open Sys2Proof.Claims

/-- Commit after a lane write leaves every other lane, F among them, as it was. -/
theorem Action.done_writeU8_readU8_other (costs : CycleCost) (s : State) {lane ln : Lane} (v : Byte) (nextPc : BitVec 17)
    (e : CostEntry) (h : ln ≠ lane) :
    (Action.done costs s ⟨s.writeU8 lane v, nextPc, e⟩).readU8 ln = s.readU8 ln := by
  rw [Action.done_readU8, s.readU8_writeU8_other lane ln v h]

/-! ## `LD r,d8` -/

theorem actionOf_ldRD8 (r : Reg) (n : Byte) (s : State) :
    actionOf (.ldRD8 r n) s = ⟨s.writeU8 r.lane n, s.fallThrough 2, .ldRD8⟩ := by cases r <;> rfl

theorem nextPc_ldRD8 (r : Reg) (n : Byte) (s : State) : nextPc (.ldRD8 r n) s = s.pc.toNat + 2 := by cases r <;> rfl

theorem costOf_ldRD8 (r : Reg) (n : Byte) (s : State) : costOf (.ldRD8 r n) s = .ldRD8 := by cases r <;> rfl

/-- Settles O41: the action writes the immediate through the port of the lane, so the frame is that of the port, and
the faults are those of every instruction that falls through and of every opcode that reads an operand byte at 0x10000. -/
theorem loadImm8WritesLane : Obligations.LoadImm8WritesLane := by
  refine ⟨fun n => rfl, fun r n s hroom => ?completes, fun r n s hpc => ?pastTop, fun s hrun hpc hop => ?operand⟩
  case completes =>
    obtain ⟨hexec, hadv⟩ := exec_advances hroom (nextPc_ldRD8 r n s) (costOf_ldRD8 r n s)
    rw [actionOf_ldRD8] at hexec hadv
    refine ⟨_, hexec, ?lane, Action.done_writeU8_readU8_other _ s n _ _ r.lane_ne_f.symm,
      ⟨fun ln _ hother => ?otherLanes, s.writeU8_sp r.lane n⟩, fun a => ?memory, s.writeU8_status r.lane n, hadv⟩
    case lane => rw [Action.done_readU8, State.readU8_writeU8_same]
    case otherLanes => exact Action.done_writeU8_readU8_other _ s n _ _ (List.ne_of_not_mem_cons hother)
    case memory => rw [Action.done_mem, State.writeU8_mem]
  case pastTop => exact exec_nextPcFault (by rw [nextPc_ldRD8, hpc]; rfl)
  case operand =>
    obtain ⟨-, atFFFF, -⟩ := operandReadsPastTopFault
    exact atFFFF s hrun hpc (.inr (.inl hop))

end Sys2Proof.Machine
end

section
/-! The rotates and the shift to the right (spec/46_rotate_shift_right.md R130 to R132): their results read as arithmetic on the
operand, then one lemma about every instruction whose action writes such a result with the four flags, which the three forms
cite. -/

namespace Sys2Proof.Machine

open Sys2Proof.Claims

/-! ## The results as arithmetic -/

/-- The bit moved out is the remainder of the operand by 2 (R132). -/
theorem shiftedOut_eq_decide (v : Byte) : shiftedOut v = decide (v.toNat % 2 = 1) := Nat.testBit_zero v.toNat

/-- A bit put before `v[7:1]` weighs 128, and `v[7:1]` is the operand halved. -/
theorem toNat_append_upperBits (b : BitVec 1) (v : Byte) : (b ++ v.extractLsb' 1 7).toNat = v.toNat / 2 + 128 * b.toNat := by
  have hhalf : (v.extractLsb' 1 7).toNat = v.toNat / 2 := by
    rw [BitVec.extractLsb'_toNat, Nat.shiftRight_one]
    omega
  rw [BitVec.toNat_append, ← Nat.shiftLeft_add_eq_or_of_lt (v.extractLsb' 1 7).isLt, Nat.shiftLeft_eq, hhalf]
  omega

theorem rotateRight1_toNat (v : Byte) : (rotateRight1 v).toNat = v.toNat / 2 + 128 * (v.toNat % 2) := by
  rw [rotateRight1, toNat_append_upperBits, BitVec.extractLsb'_toNat, Nat.shiftRight_zero, Nat.pow_one]

theorem shiftRight1_toNat (v : Byte) : (shiftRight1 v).toNat = v.toNat / 2 := toNat_append_upperBits 0#1 v

/-! ## Any instruction that moves bit 0 of a lane into Carry -/

/-- The lane takes the result and Carry the old bit 0; N and H are cleared, Z is what the action gives, and everything else
stays (10_state.md R34, R35). -/
theorem exec_shiftsLane {i : Instr} {s : State} {lane : Lane} {v : Byte} {z : Bool} {length : Nat} {e : CostEntry}
    (hlane : lane ≠ .f) (hroom : RoomFor s length e)
    (hact : actionOf i s =
      ⟨(s.writeU8 lane v).writeZNHC z false false (shiftedOut (s.readU8 lane)), s.fallThrough length, e⟩)
    (hpc : nextPc i s = s.pc.toNat + length) (hcost : costOf i s = e) :
    ∃ t, exec i s = .next t ∧ t.readU8 lane = v ∧ t.readFlag .z = z ∧
      t.readFlag .c = decide ((s.readU8 lane).toNat % 2 = 1) ∧ t.readFlag .n = false ∧ t.readFlag .h = false ∧
      SameLowNibble s t ∧ SameLanesBut s t [lane] ∧ SameMemory s t ∧ t.status = s.status ∧ Advanced s t length e := by
  obtain ⟨hexec, hadv⟩ := exec_advances hroom hpc hcost
  rw [hact] at hexec hadv
  have hflags (g : Flag) := (s.writeU8 lane v).readFlag_writeZNHC z false false (shiftedOut (s.readU8 lane)) g
  refine ⟨_, hexec, ?result, hflags .z, (hflags .c).trans (shiftedOut_eq_decide _), hflags .n, hflags .h,
    exec_lowNibble hexec, ⟨fun ln hln hother => ?otherLanes, s.writeU8_sp lane v⟩, fun a => ?memory,
    s.writeU8_status lane v, hadv⟩
  case result => rw [Action.done_readU8, State.readU8_writeZNHC _ _ _ _ _ _ hlane, State.readU8_writeU8_same]
  case otherLanes =>
    rw [Action.done_readU8, State.readU8_writeZNHC _ _ _ _ _ _ hln,
      s.readU8_writeU8_other lane ln v (List.ne_of_not_mem_cons hother)]
  case memory => rw [Action.done_mem, State.writeZNHC_mem, State.writeU8_mem]

/-- Z written as the zero test of the result is the zero test of the lane. -/
theorem State.readFlag_z_iff {t : State} {lane : Lane} {v : Byte} (hz : t.readFlag .z = (v == 0#8))
    (hv : t.readU8 lane = v) : t.readFlag .z = true ↔ t.readU8 lane = 0x00#8 := by
  rw [hz, hv, beq_iff_eq]

/-- Behind the prefix byte the last address leaves no room for the sub-opcode (20_memory.md R50). -/
theorem operandReadFault_of_cbPrefix {s : State} (hrun : s.status = .running) (hpc : s.pc = 0xFFFF#16)
    (hop : s.mem.read s.pc.toNat = 0xCB#8) : OperandReadFault s := by
  obtain ⟨-, atFFFF, -⟩ := operandReadsPastTopFault
  exact atFFFF s hrun hpc (.inl hop)

/-! ## `RRCA` -/

/-- Settles O42: the form writes the rotated accumulator and clears Z, and its fault is that of every instruction that falls
through. -/
theorem rotateAccumulatorRight : Obligations.RotateAccumulatorRight := by
  refine ⟨rfl, fun s hroom => ?completes, fun s hpc => ?pastTop⟩
  case completes =>
    obtain ⟨t, hexec, hres, hz, hc, hframe⟩ := exec_shiftsLane (by decide) hroom (actionOf_rrca s) rfl rfl
    exact ⟨t, hexec, hres ▸ rotateRight1_toNat _, hc, hz, hframe⟩
  case pastTop =>
    have htop : nextPc .rrca s = s.pc.toNat + 1 := rfl
    exact exec_nextPcFault (by rw [htop, hpc]; rfl)

/-! ## `RRC r` -/

theorem actionOf_rrcR (r : Reg) (s : State) :
    actionOf (.rrcR r) s = ⟨s.rotatedRight r.lane, s.fallThrough 2, .rrcR⟩ := by cases r <;> rfl

theorem nextPc_rrcR (r : Reg) (s : State) : nextPc (.rrcR r) s = s.pc.toNat + 2 := by cases r <;> rfl

theorem costOf_rrcR (r : Reg) (s : State) : costOf (.rrcR r) s = .rrcR := by cases r <;> rfl

/-- Settles O43: the form writes the rotated lane and its zero test, and its faults are those of every instruction that falls
through and of the prefix byte. -/
theorem rotateLaneRight : Obligations.RotateLaneRight := by
  refine ⟨rfl, fun r s hroom => ?completes, fun r s hpc => ?pastTop, fun s => operandReadFault_of_cbPrefix⟩
  case completes =>
    obtain ⟨t, hexec, hres, hz, hc, hframe⟩ :=
      exec_shiftsLane r.lane_ne_f hroom (actionOf_rrcR r s) (nextPc_rrcR r s) (costOf_rrcR r s)
    exact ⟨t, hexec, hres ▸ rotateRight1_toNat _, hc, State.readFlag_z_iff hz hres, hframe⟩
  case pastTop => exact exec_nextPcFault (by rw [nextPc_rrcR, hpc]; rfl)

/-! ## `SRL r` -/

theorem actionOf_srlR (r : Reg) (s : State) :
    actionOf (.srlR r) s = ⟨s.shiftedRight r.lane, s.fallThrough 2, .srlR⟩ := by cases r <;> rfl

theorem nextPc_srlR (r : Reg) (s : State) : nextPc (.srlR r) s = s.pc.toNat + 2 := by cases r <;> rfl

theorem costOf_srlR (r : Reg) (s : State) : costOf (.srlR r) s = .srlR := by cases r <;> rfl

/-- Settles O44: the form writes the halved lane and its zero test, and its faults are those of every instruction that falls
through and of the prefix byte. -/
theorem shiftLaneRight : Obligations.ShiftLaneRight := by
  refine ⟨rfl, fun r s hroom => ?completes, fun r s hpc => ?pastTop, fun s => operandReadFault_of_cbPrefix⟩
  case completes =>
    obtain ⟨t, hexec, hres, hz, hc, hframe⟩ :=
      exec_shiftsLane r.lane_ne_f hroom (actionOf_srlR r s) (nextPc_srlR r s) (costOf_srlR r s)
    exact ⟨t, hexec, hres ▸ shiftRight1_toNat _, hc, State.readFlag_z_iff hz hres, hframe⟩
  case pastTop => exact exec_nextPcFault (by rw [nextPc_srlR, hpc]; rfl)

end Sys2Proof.Machine
end

section
/-! The absolute jumps (spec/47_jump.md R135 to R137). -/

namespace Sys2Proof.Machine

open Sys2Proof.Claims

/-- The state left by a completed jump, without the 17-bit next PC. -/
theorem Action.done_jumpTarget (costs : CycleCost) (s w : State) (n : Word) (e : CostEntry) :
    Action.done costs s ⟨w, jumpTarget n, e⟩ =
      { w with pc := n, cycles := s.cycles + BitVec.ofNat 64 (costs e) } := by
  rw [Action.done, jumpTarget_truncate, BitVec.ofNat_add, BitVec.ofNat_toNat, BitVec.setWidth_eq]

/-! ## `JP a16` -/

/-- Settles O45: the action of `JP a16` writes nothing and its next PC is always in memory; its operand faults are those of
every opcode of format `OP_D16`. -/
theorem jumpSetsPc : Obligations.JumpSetsPc := by
  refine ⟨fun n => rfl, fun n s hc => ?completes, fun s hrun hpc hop => ?operand⟩
  case completes => rw [exec_completes (i := .jpA16 n) n.isLt hc, actionOf_jpA16, Action.done_jumpTarget]
  case operand => exact operandReadFault_of_d16Opcode hrun hpc (by rw [hop]; decide)

/-! ## `JP cc,a16` -/

theorem actionOf_jpCcA16_taken {cc : Cond} {s : State} (n : Word) (h : holds s cc = true) :
    actionOf (.jpCcA16 cc n) s = ⟨s, jumpTarget n, .jpCcTaken⟩ := by
  rw [← State.cond_eq_holds] at h
  cases cc <;> exact if_pos h

theorem actionOf_jpCcA16_notTaken {cc : Cond} {s : State} (n : Word) (h : holds s cc = false) :
    actionOf (.jpCcA16 cc n) s = ⟨s, s.fallThrough 3, .jpCcNotTaken⟩ := by
  rw [← State.cond_eq_holds] at h
  cases cc <;> exact if_neg (ne_true_of_eq_false h)

theorem nextPc_jpCcA16_notTaken {cc : Cond} {s : State} (n : Word) (h : holds s cc = false) :
    nextPc (.jpCcA16 cc n) s = s.pc.toNat + 3 := by
  rw [nextPc_jpCcA16, if_neg (ne_true_of_eq_false h)]

theorem costOf_jpCcA16_taken {cc : Cond} {s : State} (n : Word) (h : holds s cc = true) :
    costOf (.jpCcA16 cc n) s = .jpCcTaken := by
  rw [← actionOf_cost, actionOf_jpCcA16_taken n h]

theorem costOf_jpCcA16_notTaken {cc : Cond} {s : State} (n : Word) (h : holds s cc = false) :
    costOf (.jpCcA16 cc n) s = .jpCcNotTaken := by
  rw [← actionOf_cost, actionOf_jpCcA16_notTaken n h]

/-- Settles O46, by the condition: a jump that is taken goes where `JP a16` goes, one that is not falls through. -/
theorem conditionalJump : Obligations.ConditionalJump := by
  refine ⟨fun n => rfl, fun s => ⟨rfl, rfl, rfl, rfl⟩, fun cc n s hcc hc => ?taken,
    fun cc n s hcc ⟨hpc, hc⟩ => ?notTaken, fun cc n s hcc hpc => ?pastTop, fun s hrun hpc hop => ?operand⟩
  case taken =>
    rw [← costOf_jpCcA16_taken n hcc] at hc
    rw [exec_completes (nextPc_jpCcA16_lt n hcc) hc, actionOf_jpCcA16_taken n hcc, Action.done_jumpTarget]
  case notTaken =>
    rw [← nextPc_jpCcA16_notTaken n hcc] at hpc
    rw [← costOf_jpCcA16_notTaken n hcc] at hc
    rw [exec_completes hpc hc, actionOf_jpCcA16_notTaken n hcc, Action.done_fallThrough (by decide)]
  case pastTop => exact exec_nextPcFault (by rw [nextPc_jpCcA16_notTaken n hcc, hpc]; rfl)
  case operand =>
    have hformat : [0xC2#8, 0xCA#8, 0xD2#8, 0xDA#8] ⊆ d16Opcodes := by decide
    exact operandReadFault_of_d16Opcode hrun hpc (hformat hop)

end Sys2Proof.Machine
end

section
/-! The bytes the decoder misses (spec/30_encoding.md R65, R66, R69). -/

namespace Sys2Proof

open Sys2Proof.Claims

/-- The opcodes of the primary entries with operand bytes are those the formats list (30_encoding.md R66). -/
def Entry.FormatListed (opcode : Byte) : Entry → Prop
  | .op _ => True
  | .opD8 _ => opcode ∈ d8Opcodes
  | .opD16 _ => opcode ∈ d16Opcodes

theorem primaryTable_formatListed : ∀ p ∈ primaryTable, p.2.FormatListed p.1 := by
  simp only [primaryTable, primaryRows0, primaryRows1, primaryRows2, primaryRows3, primaryRows7, primaryRowsJump,
    List.forall_mem_append, List.forall_mem_cons]
  simp [Entry.FormatListed, d8Opcodes, d16Opcodes]

/-- Where a byte can be missing behind an opcode: the first one in the formats with operands and behind the prefix byte, the
second one in format `OP_D16`. -/
def MissingAt (opcode : Byte) (k : Nat) : Prop :=
  (k = 1 ∧ (opcode = 0xCB#8 ∨ opcode ∈ d8Opcodes ∨ opcode ∈ d16Opcodes)) ∨ (k = 2 ∧ opcode ∈ d16Opcodes)

theorem MissingAt.le_two {opcode : Byte} {k : Nat} (h : MissingAt opcode k) : k ≤ 2 := by
  obtain ⟨rfl, -⟩ | ⟨rfl, -⟩ := h <;> decide

theorem missingAt_of_decodeOperands {opcode : Byte} {e : Entry} {bs : List Byte} {k : Nat}
    (he : e.FormatListed opcode) (h : decodeOperands e bs = .missingByte k) :
    k = bs.length + 1 ∧ MissingAt opcode k := by
  match e, bs with
  | .opD8 _, [] =>
    cases h
    exact ⟨rfl, .inl ⟨rfl, .inr (.inl he)⟩⟩
  | .opD16 _, [] =>
    cases h
    exact ⟨rfl, .inl ⟨rfl, .inr (.inr he)⟩⟩
  | .opD16 _, [_] =>
    cases h
    exact ⟨rfl, .inr ⟨rfl, he⟩⟩

theorem missingByte_of_decodeSecondary {bs : List Byte} {k : Nat} (h : decodeSecondary bs = .missingByte k) :
    bs = [] ∧ k = 1 := by
  cases bs with
  | nil =>
    cases h
    exact ⟨rfl, rfl⟩
  | cons c cs =>
    rw [decodeSecondary] at h
    split at h <;> cases h

/-- The decoder misses the byte behind the last one it was given, and only in a format that has one there. -/
theorem missingAt_of_decode {opcode : Byte} {bs : List Byte} {k : Nat} (h : decode (opcode :: bs) = .missingByte k) :
    k = bs.length + 1 ∧ MissingAt opcode k := by
  rw [decode] at h
  split at h
  next hcb =>
    obtain ⟨rfl, rfl⟩ := missingByte_of_decodeSecondary h
    exact ⟨rfl, .inl ⟨rfl, .inl hcb⟩⟩
  next =>
    split at h
    next hl => exact missingAt_of_decodeOperands (primaryTable_formatListed _ (mem_of_lookup_eq_some hl)) h
    next => cases h

end Sys2Proof
end

section
/-! The runtime faults (spec/60_exceptions.md R202 to R204, R216): a fault changes the status alone, and where each kind of
`OutOfRange` arises. -/

namespace Sys2Proof.Machine

open Sys2Proof.Claims

/-! ## What a fault leaves -/

/-- Settles O19, from the law of a step that ends in a fault. -/
theorem faultsArePrecise : Obligations.FaultsArePrecise :=
  fun _ _ _ => step_eq_raise_of_faulted

/-- A raised fault is taken back by putting the status back to Running. -/
theorem State.raise_withRunning {s : State} (info : EngineFault) (hrun : s.status = .running) :
    { s.raise info with status := .running } = s := by
  rw [← hrun]
  rfl

/-- Settles O20: the state to replay is the one the fault was raised in. -/
theorem diagnosticReplaysTheFault : Obligations.DiagnosticReplaysTheFault := by
  intro s t info h ht
  obtain ⟨hrun, -⟩ := step_cases h
  obtain rfl := step_eq_raise_of_faulted h ht
  rwa [State.raise_withRunning info hrun]

/-! ## The bytes a fetch misses -/

/-- Fewer than three bytes are fetched only where the address behind them is the top of memory. -/
theorem State.pc_add_fetchBytes_length {s : State} (h : s.fetchBytes.length ≤ 2) :
    s.pc.toNat + s.fetchBytes.length = 0x10000 := by
  have hle := s.fetchBytes_length_le
  have hnone : s.fetchBytes[s.fetchBytes.length]? = none := List.getElem?_eq_none (Nat.le_refl _)
  rw [s.fetchBytes_getElem?, ite_eq_right_iff] at hnone
  have hge : ¬ s.pc.toNat + s.fetchBytes.length < 0x10000 := fun hlt => nomatch hnone ⟨h, hlt⟩
  omega

/-- The byte a fetch misses is the one at 0x10000 (60_exceptions.md R202). -/
theorem missingAt_of_fetch {s : State} {k : Nat} (h : decode s.fetchBytes = .missingByte k) :
    s.pc.toNat + k = 0x10000 ∧ MissingAt (s.mem.read s.pc.toNat) k := by
  obtain ⟨bs, hbs⟩ := s.fetchBytes_eq_cons
  rw [hbs] at h
  obtain ⟨hk, hat⟩ := missingAt_of_decode h
  have hlen : s.fetchBytes.length = k := by rw [hbs, List.length_cons, hk]
  exact ⟨hlen ▸ State.pc_add_fetchBytes_length (hlen.trans_le hat.le_two), hat⟩

/-! ## Where each kind arises -/

/-- Everything a step that answers a next state can have done, by what the bytes at PC decode to. -/
theorem step_outcomes {s t : State} (h : step s = .next t) :
    (∃ i rest, decode s.fetchBytes = .ok i rest ∧ exec i s = .next t) ∨
    (∃ byte subop, decode s.fetchBytes = .unknownOpcode byte subop ∧ t = s.raise (.unknownOpcode s.pc byte subop)) ∨
    (∃ k, decode s.fetchBytes = .missingByte k ∧
      t = s.raise (.outOfRange s.pc (s.mem.read s.pc.toNat) .operandRead 0x10000#17)) := by
  obtain ⟨hrun, -⟩ := step_cases h
  cases hd : decode s.fetchBytes with
  | ok i rest => exact .inl ⟨i, rest, rfl, (stepUsing_of_decode hrun hd).symm.trans h⟩
  | unknownOpcode byte subop =>
    cases (step_of_unknownOpcode hrun hd).symm.trans h
    exact .inr (.inl ⟨byte, subop, rfl, rfl⟩)
  | missingByte k =>
    obtain ⟨htop, hat⟩ := missingAt_of_fetch hd
    cases (operandReadFault_of_missingByte hrun hd (hat.le_two.trans (by decide)) htop).symm.trans h
    exact .inr (.inr ⟨k, rfl, rfl⟩)

theorem Action.done_status_ne_faulted {costs : CycleCost} {i : Instr} {s : State} {info : EngineFault}
    (hrun : s.status = .running) : ((actionOf i s).done costs s).status ≠ .faulted info := by
  rw [Action.done_status, actionOf_status, hrun]
  split <;> nofun

/-- A fetched instruction whose execution faults has its next PC at 0x10000, and no other fault. -/
theorem nextPc_eq_of_exec_faulted {i : Instr} {s t : State} {rest : List Byte} {info : EngineFault}
    (hrun : s.status = .running) (hd : decode s.fetchBytes = .ok i rest) (h : exec i s = .next t)
    (ht : t.status = .faulted info) :
    nextPc i s = 0x10000 ∧ info = .outOfRange s.pc (s.mem.read s.pc.toNat) .nextPc 0x10000#17 := by
  obtain ⟨-, pastTop, -⟩ := stepNextPcPastTopFaults
  obtain ⟨hpc, -⟩ | ⟨-, -, he⟩ | ⟨-, -, he⟩ := exec_outcomes i s
  · obtain ⟨htop, hstep⟩ := pastTop s i rest hrun hd hpc
    cases hstep.symm.trans ((stepUsing_of_decode hrun hd).trans h)
    exact ⟨htop, (Status.faulted.inj ht).symm⟩
  · cases he.symm.trans h
    exact absurd ht (Action.done_status_ne_faulted hrun)
  · cases he.symm.trans h

/-- What is no jump, and a conditional jump that is not taken, falls through (10_state.md R24). -/
theorem nextPc_of_fallsThrough {i : Instr} {s : State} (hjp : ∀ n, i ≠ .jpA16 n)
    (hcc : ∀ cc n, i = .jpCcA16 cc n → holds s cc = false) : nextPc i s = s.pc.toNat + i.length := by
  cases i with
  | jpA16 n => exact absurd rfl (hjp n)
  | jpNzA16 n => exact nextPc_jpCcA16_notTaken n (hcc .nz n rfl)
  | jpZA16 n => exact nextPc_jpCcA16_notTaken n (hcc .z n rfl)
  | jpNcA16 n => exact nextPc_jpCcA16_notTaken n (hcc .nc n rfl)
  | jpCA16 n => exact nextPc_jpCcA16_notTaken n (hcc .c n rfl)
  | _ => rfl

/-- A next PC is 0x10000 exactly where an instruction whose last byte is at 0xFFFF falls through (10_state.md R25). -/
theorem nextPc_eq_top_iff {i : Instr} {s : State} :
    nextPc i s = 0x10000 ↔
      s.pc.toNat + i.length = 0x10000 ∧ (∀ n, i ≠ .jpA16 n) ∧ (∀ cc n, i = .jpCcA16 cc n → holds s cc = false) := by
  constructor
  · intro h
    refine ⟨nextPc_eq_of_past_top h.ge ▸ h, ?_, ?_⟩
    · rintro n rfl
      exact absurd h n.isLt.ne
    · rintro cc n rfl
      exact Bool.eq_false_of_not_eq_true fun hcc => absurd h (nextPc_jpCcA16_lt n hcc).ne
  · rintro ⟨htop, hjp, hcc⟩
    exact (nextPc_of_fallsThrough hjp hcc).trans htop

theorem step_nextPcFault_iff {s : State} (hrun : s.status = .running) :
    step s = .next (s.raise (.outOfRange s.pc (s.mem.read s.pc.toNat) .nextPc 0x10000#17)) ↔
      ∃ i rest, decode s.fetchBytes = .ok i rest ∧ nextPc i s = 0x10000 := by
  constructor
  · intro h
    obtain ⟨i, rest, hd, hexec⟩ | ⟨_, _, -, ht⟩ | ⟨_, -, ht⟩ := step_outcomes h
    · obtain ⟨htop, -⟩ := nextPc_eq_of_exec_faulted hrun hd hexec rfl
      exact ⟨i, rest, hd, htop⟩
    · cases congrArg State.status ht
    · cases congrArg State.status ht
  · rintro ⟨i, rest, hd, htop⟩
    exact (stepUsing_of_decode hrun hd).trans (exec_nextPcFault htop)

theorem missingByte_of_operandReadFault {s : State} (h : OperandReadFault s) :
    ∃ k, decode s.fetchBytes = .missingByte k := by
  obtain ⟨hrun, -⟩ := step_cases h
  obtain ⟨i, rest, hd, hexec⟩ | ⟨_, _, -, ht⟩ | ⟨k, hd, -⟩ := step_outcomes h
  · obtain ⟨-, hinfo⟩ := nextPc_eq_of_exec_faulted hrun hd hexec rfl
    cases hinfo
  · cases congrArg State.status ht
  · exact ⟨k, hd⟩

/-- Settles O21: the diagnostic and the two kinds follow from what the bytes at PC decode to, the operand reads from where the
decoder misses a byte, the next PCs from where an instruction falls through. -/
theorem outOfRangeDiagnostic : Obligations.OutOfRangeDiagnostic := by
  refine ⟨fun s t addr byte kind bad h ht => ?diagnostic, fun s hrun => ⟨fun h => ?operandRead, fun h => ?conversely⟩,
    fun s hrun => ?nextPc⟩
  case diagnostic =>
    obtain ⟨hrun, -⟩ := step_cases h
    obtain ⟨i, rest, hd, hexec⟩ | ⟨_, _, -, rfl⟩ | ⟨_, -, rfl⟩ := step_outcomes h
    · obtain ⟨-, hinfo⟩ := nextPc_eq_of_exec_faulted hrun hd hexec ht
      cases hinfo
      exact ⟨rfl, rfl, rfl⟩
    · cases ht
    · cases ht
      exact ⟨rfl, rfl, rfl⟩
  case operandRead =>
    obtain ⟨k, hd⟩ := missingByte_of_operandReadFault h
    obtain ⟨htop, ⟨rfl, hop⟩ | ⟨rfl, hop⟩⟩ := missingAt_of_fetch hd
    · exact .inl ⟨by bv_omega, hop⟩
    · exact .inr ⟨by bv_omega, hop⟩
  case conversely =>
    obtain ⟨-, atFFFF, atFFFE⟩ := operandReadsPastTopFault
    obtain ⟨hpc, hop⟩ | ⟨hpc, hop⟩ := h
    · exact atFFFF s hrun hpc hop
    · exact atFFFE s hrun hpc hop
  case nextPc => simp only [step_nextPcFault_iff hrun, nextPc_eq_top_iff]

end Sys2Proof.Machine
end

section
/-! The halt instruction (spec/48_halt.md R140) and the Halted status (70_reset_and_hazards.md R258). -/

namespace Sys2Proof.Machine

open Sys2Proof.Claims

theorem nextPc_halt (s : State) : nextPc .halt s = s.pc.toNat + 1 := rfl

/-- An execution in a Running state leaves a Halted status only as the completion of `HALT`, which records its address. -/
theorem eq_halt_of_exec_halted {i : Instr} {s t : State} {addr : Word} (hrun : s.status = .running)
    (h : exec i s = .next t) (ht : t.status = .halted addr) :
    i = .halt ∧ addr = s.pc ∧ t = (actionOf .halt s).done Config.cycleCost s := by
  obtain ⟨-, he⟩ | ⟨-, -, he⟩ | ⟨-, -, he⟩ := exec_outcomes i s <;> cases he.symm.trans h
  · cases ht
  · rw [Action.done_status, actionOf_status, hrun] at ht
    split at ht
    next hi =>
      cases ht
      exact ⟨hi, rfl, hi ▸ rfl⟩
    next => cases ht

/-- The byte at PC is the first byte of the instruction fetched there (30_encoding.md R64). -/
theorem head_encode_of_decode {s : State} {i : Instr} {rest : List Byte} (h : decode s.fetchBytes = .ok i rest) :
    (encode i ++ rest).head? = some (s.mem.read s.pc.toNat) := by
  obtain ⟨bs, hbs⟩ := s.fetchBytes_eq_cons
  rw [← encodeOfDecode _ _ _ h, hbs, List.head?_cons]

/-- Settles O24: the instruction that leaves a Halted status is `HALT`, so the bytes fetched begin with its encoding and its
action writes the status alone. -/
theorem haltedExactlyByHalt : Obligations.HaltedExactlyByHalt := by
  refine ⟨fun s t addr h ht => ?step, fun i s t addr hrun h ht => (eq_halt_of_exec_halted hrun h ht).1⟩
  case step =>
    obtain ⟨hrun, -⟩ := step_cases h
    obtain ⟨i, rest, hd, hexec⟩ | ⟨_, _, -, rfl⟩ | ⟨_, -, rfl⟩ := step_outcomes h
    · obtain ⟨rfl, haddr, rfl⟩ := eq_halt_of_exec_halted hrun hexec ht
      refine ⟨haddr, (Option.some.inj (head_encode_of_decode hd)).symm, fun sl hsl _ => ?slots, fun a => rfl⟩
      case slots =>
        rw [Action.done_readU16 _ _ _ hsl, actionOf_halt]
        cases sl <;> rfl
    · cases ht
    · cases ht

/-- Settles O47: the action of `HALT` writes the status and falls through; a Halted state takes no step. -/
theorem haltEndsTheRun : Obligations.HaltEndsTheRun := by
  refine ⟨rfl, fun s ⟨hpc, hc⟩ => ?completes, fun s t u hpc h hstep => ?noStep, fun s hpc => ?pastTop⟩
  case completes =>
    rw [exec_completes (i := .halt) hpc hc, actionOf_halt, Action.done_fallThrough (by decide)]
  case noStep =>
    obtain ⟨hrun, -⟩ := step_cases hstep
    obtain ⟨htop, -⟩ | ⟨-, -, he⟩ | ⟨-, -, he⟩ := exec_outcomes .halt s
    · rw [nextPc_halt] at htop
      bv_omega
    · cases he.symm.trans h
      cases hrun
    · cases he.symm.trans h
  case pastTop => exact exec_nextPcFault (by rw [nextPc_halt, hpc]; rfl)

end Sys2Proof.Machine
end

section
/-! The load-time error (spec/60_exceptions.md R208), the run loop (70_reset_and_hazards.md R257) and the cycle counter with its
costs (R262, R263). -/

namespace Sys2Proof

theorem CostEntry.mem_all (e : CostEntry) : e ∈ CostEntry.all := by
  cases e <;> decide

end Sys2Proof

namespace Sys2Proof.Machine

open Sys2Proof.Claims

/-! ## Load and reload -/

theorem load_of_oversized {image : List Byte} (h : 0x10000 < image.length) :
    load image = .imageTooLarge image.length := by
  rw [load, imageLengthOk, if_neg (by simpa using h)]

theorem load_of_fits {image : List Byte} (h : image.length ≤ 0x10000) : ∃ t, load image = .loaded t :=
  ⟨_, load_eq_loaded_iff.mpr ⟨h, rfl⟩⟩

/-- Settles O3: `load` decides by the length, and `reload` keeps the engine or puts the loaded one in its place. -/
theorem oversizedImageRejected : Obligations.OversizedImageRejected := by
  refine ⟨fun image h => ?oversized, fun image h => ?fits⟩
  case oversized =>
    have hload := load_of_oversized h
    exact ⟨hload, fun s => by rw [State.reload, hload]⟩
  case fits =>
    obtain ⟨t, hload⟩ := load_of_fits h
    exact ⟨t, hload, fun s => by rw [State.reload, hload]⟩

/-! ## The run loop -/

theorem runUsing_one {next : State → Host.Outcome State Fault Refusal} {s : State} (h : s.status = .running) :
    runUsing next 1 s = next s := by
  rw [runUsing, if_pos h]
  cases next s <;> rfl

/-- A run goes on from where a run with less fuel ends. -/
theorem runUsing_add {next : State → Host.Outcome State Fault Refusal} {m : Nat} (n : Nat) {s t : State}
    (h : runUsing next m s = .next t) : runUsing next (m + n) s = runUsing next n t := by
  induction m generalizing s with
  | zero =>
    cases h
    rw [Nat.zero_add]
  | succ m ih =>
    rw [Nat.succ_add]
    rcases eq_or_ne s.status .running with hrun | hended
    · rw [runUsing, if_pos hrun] at h
      cases hnext : next s with
      | next u =>
        rw [hnext] at h
        rw [runUsing_succ _ hrun hnext, ih h]
      | fault r =>
        rw [hnext] at h
        cases h
      | refused r =>
        rw [hnext] at h
        cases h
    · rw [runUsing_of_ended _ hended] at h ⊢
      cases h
      rw [runUsing_of_ended _ hended]

/-- Settles O18, by the splitting law of the loop: the second part of a run that has ended takes no step. -/
theorem runStepsWhileRunning : Obligations.RunStepsWhileRunning := by
  refine ⟨fun s => runUsing_one, fun m n s t => runUsing_add n, fun m n s t h hended => ?ended⟩
  case ended => exact (runUsing_add n h).trans (runUsing_of_ended n hended)

/-! ## The counter and the costs -/

/-- Commits of one action, under any two tables and from any two counters, differ in the counter alone: the next-PC check,
which is the same in both, decides between the fault and the writes. -/
theorem commitWith_eq_but_cycles {costs costs' : CycleCost} {s t t' : State} {act : Action} {c c' : BitVec 64}
    (h : commitWith costs s act = .next t)
    (h' : commitWith costs' { s with cycles := c } { act with written := { act.written with cycles := c' } } =
      .next t') : t' = { t with cycles := t'.cycles } := by
  obtain ⟨hpc, rfl⟩ | ⟨hpc, -, rfl⟩ := commitWith_cases h <;>
    obtain ⟨hpc', rfl⟩ | ⟨hpc', -, rfl⟩ := commitWith_cases h'
  · rfl
  · exact absurd hpc' (Nat.not_lt.mpr hpc)
  · exact absurd hpc (Nat.not_lt.mpr hpc')
  · rfl

theorem execWith_eq_but_cycles {costs costs' : CycleCost} {i : Instr} {s t t' : State} {c : BitVec 64}
    (h : execWith costs i s = .next t) (h' : execWith costs' i { s with cycles := c } = .next t') :
    t' = { t with cycles := t'.cycles } := by
  rw [execWith, actionOf_withCycles] at h'
  exact commitWith_eq_but_cycles h h'

/-- A fetch reads no counter, so both steps execute the same instruction or raise the same fault. -/
theorem stepWith_eq_but_cycles {costs costs' : CycleCost} {s t t' : State} {c : BitVec 64}
    (h : stepWith costs s = .next t) (h' : stepWith costs' { s with cycles := c } = .next t') :
    t' = { t with cycles := t'.cycles } := by
  have hfetch : State.fetch { s with cycles := c } = s.fetch := rfl
  obtain ⟨-, ⟨i, hf, hexec⟩ | ⟨info, hf, rfl⟩⟩ := stepWith_cases h <;>
    obtain ⟨-, ⟨i', hf', hexec'⟩ | ⟨info', hf', rfl⟩⟩ := stepWith_cases h' <;>
    cases hf.symm.trans (hfetch.symm.trans hf')
  · exact execWith_eq_but_cycles hexec hexec'
  · rfl

/-- Settles O30: no action reads the counter or a cost, and commit writes the cost into the counter alone. -/
theorem cyclesInfluenceNothing : Obligations.CyclesInfluenceNothing := by
  refine ⟨fun s t t' c h h' => ?_, fun _ _ _ _ _ _ => stepWith_eq_but_cycles, fun _ _ _ _ _ _ => commitWith_eq_but_cycles⟩
  rw [step_eq_stepWith] at h h'
  exact stepWith_eq_but_cycles h h'

/-- Settles O31: the table row by row; that `NOP` costs the least is what makes it well formed. -/
theorem defaultCycleCosts : Obligations.DefaultCycleCosts := by
  refine ⟨rfl, fun e => ⟨CostEntry.mem_all e, cycleCost_nop_le e⟩, ?wellFormed⟩
  case wellFormed => exact List.all_eq_true.mpr fun e _ => decide_eq_true (cycleCost_nop_le e)

end Sys2Proof.Machine
end
